-- ==== Sys2Proof/Word.lean ====
section
/-!
DEFINITION. The word types of the model and the access to a fixed number of like things.
-/
namespace Sys2Proof

/-- One byte (00_scope.md, Conventions). -/
abbrev Byte := BitVec 8

/-- A transaction ID (00_scope.md, Transactions). -/
abbrev Id := BitVec 8

/-- A 40-bit address (00_scope.md, Transactions). -/
abbrev Addr := BitVec 40

/-- The entry of a fixed number of like things that a number in range names. -/
def vget {α : Type} {n : Nat} (v : Vector α n) (i : Fin n) : α := v[i.val]'i.isLt

/-- The same things with one of them replaced. -/
def vset {α : Type} {n : Nat} (v : Vector α n) (i : Fin n) (a : α) : Vector α n := v.set i.val a i.isLt

/-- n things, each made from its number. -/
def vtab {α : Type} {n : Nat} (f : Fin n → α) : Vector α n :=
  ⟨((List.finRange n).map f).toArray, by simp⟩

@[simp] theorem vget_vtab {α : Type} {n : Nat} (f : Fin n → α) (i : Fin n) : vget (vtab f) i = f i := by
  simp [vget, vtab]

@[simp] theorem vget_vset_same {α : Type} {n : Nat} (v : Vector α n) (i : Fin n) (a : α) :
    vget (vset v i a) i = a := by
  simp [vget, vset]

theorem vget_vset {α : Type} {n : Nat} (v : Vector α n) (i j : Fin n) (a : α) :
    vget (vset v i a) j = if i = j then a else vget v j := by
  simp [vget, vset, Vector.getElem_set, Fin.ext_iff]

theorem vget_vset_other {α : Type} {n : Nat} (v : Vector α n) (i j : Fin n) (a : α) (h : i ≠ j) :
    vget (vset v i a) j = vget v j := by
  simp [vget_vset, h]

@[simp] theorem vget_replicate {α : Type} {n : Nat} (a : α) (i : Fin n) :
    vget (Vector.replicate n a) i = a := by
  simp [vget]

end Sys2Proof
end

