-- ==== Sys2Proof/Syntax.lean ====
section
/-!
DEFINITION. The commands the part takes: one constructor of Instr for each row of spec/opcode_table.json.
A row's operands are what its event carries: a transaction, a response with its data, a pulse's strand, a word's argument.
-/
namespace Sys2Proof

/-- The direction of a transaction; also the kind of an Outstanding Table record (R1). -/
inductive Dir where
  | read
  | write
  deriving DecidableEq, Repr

/-- A response, OKAY or ERROR (00_scope.md, Transactions). -/
inductive Resp where
  | okay
  | error
  deriving DecidableEq, Repr

/-- A level of VIEWBLK_s: of the sampled input, or of the debounced view level (R61). -/
inductive ViewLevel where
  | active
  | inactive
  deriving DecidableEq, Repr

/-- A level that the sampled input VIEWBLK_s came to at the time base reading `since` and has held without interruption up to
`upTo` (R61). -/
structure HeldLevel where
  level : ViewLevel
  since : Nat
  upTo : Nat
  deriving DecidableEq, Repr

/-- The commands. The operands of an argument that the host writes as a byte or a word stay bits, so that the values
the part refuses can be written as well. -/
inductive Instr where
  /-- RESET_ASSERT (R19): RESET_N goes low. -/
  | resetAssert
  /-- RESET_RELEASE (R19): RESET_N is released; the two straps as they stand then. -/
  | resetRelease (ctlStrap : BitVec 20) (ownId : Id)
  /-- SYSTEM_READ_ARRIVAL (R3): the interconnect presents a read. -/
  | systemReadArrival (id : Id) (addr : Addr) (count : Nat)
  /-- SYSTEM_WRITE_ARRIVAL (R3): the interconnect presents a write; one strobe for each data byte. -/
  | systemWriteArrival (id : Id) (addr : Addr) (data : List Byte) (strobes : List Bool)
  /-- GRANT (R17): the M-port can take a transaction. -/
  | grant
  /-- OWN_QUEUE_PLACE_GIVEN (R16): a freed place of the Own Traffic Queue is given to a waiting unit. -/
  | ownQueuePlaceGiven
  /-- FORWARDED_RESPONSE (R15): the DRAM controller answers the next forwarded piece of that kind and ID. -/
  | forwardedResponse (dir : Dir) (id : Id) (resp : Resp) (data : List Byte)
  /-- HOLD_LIMIT_EXPIRY (R14): the hold timer of that ID's front write expires. -/
  | holdLimitExpiry (id : Id)
  /-- ENCODER_PULSE (R51): a rising edge of ENC_s, with the time base reading at it in microseconds. -/
  | encoderPulse (strand : Fin 4) (at_ : Nat)
  /-- CUT_LINE_EDGE (R55): a rising edge of CUT_s. -/
  | cutLineEdge (strand : Fin 4)
  /-- HOLD_TIMER_EXPIRY (R53). -/
  | holdTimerExpiry (strand : Fin 4)
  /-- OSCILLATION_PULSE (R116): a rising edge of OSC_s. -/
  | oscillationPulse (strand : Fin 4)
  /-- VIEW_LEVEL_EDGE (R61): the level of the sampled input VIEWBLK_s, with the readings it was held at; the debounce decides
  whether the view level takes it (log 5). -/
  | viewLevelEdge (strand : Fin 4) (level : HeldLevel)
  /-- ALERT_TIMER_EXPIRY (R132). -/
  | alertTimerExpiry (strand : Fin 4)
  /-- STATUS_PERIOD_EXPIRY (R181). -/
  | statusPeriodExpiry
  /-- TAKING (R88): the Track Table takes the head entry of the Line Result Queue. -/
  | taking
  /-- STATUS_WRITE_RESPONSE (R180). -/
  | statusWriteResponse (resp : Resp)
  /-- ZERO_RECORD_WRITE_RESPONSE (R140). -/
  | zeroRecordWriteResponse (resp : Resp)
  /-- RING_WRITE_RESPONSE (R139). -/
  | ringWriteResponse (resp : Resp)
  /-- BILLET_RECORD_WRITE_RESPONSE (R146). -/
  | billetRecordWriteResponse (resp : Resp)
  /-- RING_READ_RESPONSE (R161). -/
  | ringReadResponse (resp : Resp) (data : List Byte)
  /-- TILE_ROW_WRITE_RESPONSE (R162). -/
  | tileRowWriteResponse (resp : Resp)
  /-- TILE_HEADER_RESPONSE (R163). -/
  | tileHeaderResponse (resp : Resp)
  /-- GLOBAL_ENABLE_ON (R172): the Global Enable byte is written to 1. -/
  | globalEnableOn
  /-- GLOBAL_ENABLE_OFF (R173): the Global Enable byte is written to 0. -/
  | globalEnableOff
  /-- WINDOW_ENABLE (R27): the Enable byte of a Window Table entry is written to 1. -/
  | windowEnable (w : Fin 16)
  /-- WINDOW_DISABLE (R28): the Enable byte of a Window Table entry is written to 0. -/
  | windowDisable (w : Fin 16)
  /-- FILTER_ENTRY_ENABLE (R128): the Enable byte of a Filter Table entry is written to 1. -/
  | filterEntryEnable (i : Fin 8)
  /-- FILTER_ENTRY_DISABLE (R128): the Enable byte of a Filter Table entry is written to 0. -/
  | filterEntryDisable (i : Fin 8)
  /-- CAUSE_ENABLE_MASK_WRITE (R176). -/
  | causeEnableMaskWrite (mask : BitVec 16)
  /-- RING_GET_INDEX_WRITE (R176). -/
  | ringGetIndexWrite (index : BitVec 16)
  /-- STRAND_START (R48): the argument byte names the strand. -/
  | strandStart (arg : Byte)
  /-- STRAND_STOP (R49): the argument byte names the strand. -/
  | strandStop (arg : Byte)
  /-- CUT_NOW (R55): the argument byte names the strand. -/
  | cutNow (arg : Byte)
  /-- HEAD_RESTART (R41): the argument byte names the face channel. -/
  | headRestart (arg : Byte)
  /-- RELEASE_TILES (R167): bit i names tile i. -/
  | releaseTiles (mask : BitVec 64)
  /-- ACK_CAUSES (R178): one bit for each cause. -/
  | ackCauses (mask : BitVec 16)
  /-- ACK_VIEW (R62): bits 0 to 3 name strands. -/
  | ackView (mask : Byte)
  /-- CONTROL_PAGE_SETTINGS_WRITE (R174): a Control Page write at an offset of the page. -/
  | controlPageSettingsWrite (offset : BitVec 14) (data : List Byte) (strobes : List Bool)
  deriving DecidableEq, Repr

end Sys2Proof
end

