-- ==== Sys2Proof/Decode.lean ====
section
/-!
DEFINITION. The commands that a word spells by the opcode table's bits: none, since no row of this table gives bits.
-/
namespace Sys2Proof

/-- No row of spec/opcode_table.json gives a word for its command, so no word spells one. -/
def decodeTableWord (_nbits _w : Nat) : Option Instr := none

end Sys2Proof
end

