-- ==== Sys2Proof/Config.lean ====
section
/-!
DEFINITION. The numbers the part fixes, and the free choices the spec leaves open.
-/
namespace Sys2Proof.Config

/-- The free choices of the model (log 9): the n-th choice the spec leaves open ("either order") is made by this
uninterpreted number. Nothing can evaluate it, so a claim holds whichever way the choice falls. -/
opaque freeChoice : Nat → Nat

/-- When the overrun and aborted counts rise (log 14): at the abort, as R159 and R165 say, or at the answer of the aborted
slot's header, as R163 and R168 say. The spec says both and gives no ruling, so this is left free. -/
opaque countsAtAbort : Bool

/-- Places of the Outstanding Table (R1). -/
def tablePlaces : Nat := 64
/-- Most writes held (R12). -/
def heldPlaces : Nat := 16
/-- Places of the Own Traffic Queue (R16). -/
def ownPlaces : Nat := 8
/-- Most forwarded grants an own request waits through (R17). -/
def ownWaitLimit : Nat := 16
/-- Result places of the Line Result Queue (R81). -/
def resultPlaces : Nat := 32
/-- Most segments of a line that is not NOISY (R77). -/
def segmentLimit : Nat := 16
/-- Lines that bring a model to READY (R79). -/
def warmUpLines : Nat := 32
/-- Good lines that bring a head back to ACTIVE (R42). -/
def goodRunLines : Nat := 64
/-- Entries of a gap list (R64). -/
def gapPlaces : Nat := 8
/-- Entries of the Hold Pool (R134). -/
def poolPlaces : Nat := 256
/-- Records of the Findings Ring (R138). -/
def ringPlaces : Nat := 1024
/-- Where the counters stay (R44, R66, R84, R111, R125, R149, R168). -/
def counterTop : Nat := 0xFFFFFFFF
/-- The greatest travel integer (R45, R52). -/
def travelTop : Nat := 2 ^ 40 - 1

end Sys2Proof.Config
end

