-- ==== Sys2Proof/Machine/State.lean ====
section
/-!
DEFINITION. The state of the part as plain data, one structure for each block that owns state, and its reset values.
Each structure's docstring names the rule of spec/ that lists its fields. Counts and travel coordinates are Nat, kept in
their ranges by the operations; what the spec treats as bits (addresses, IDs, masks, bytes) is a bit vector.
-/
namespace Sys2Proof.Machine

/-- The conditions that stop the part: the spec names none (refusals are ERROR responses, R6; memory errors are causes
and counters, R18, R38, R162), so no command faults and this type has no constructor. -/
inductive Fault where
  deriving DecidableEq, Repr

/-- Why a command has no meaning in the model. -/
inductive Refusal where
  /-- Raised by an arm of exec that has no meaning yet; safe, since nothing follows from it. -/
  | notModelled (mnemonic : String)
  /-- Raised by the two arrival commands and by CONTROL_PAGE_SETTINGS_WRITE when the operand is no transaction that a
  port can carry (00_scope.md, Transactions; log 21); safe, since the spec gives such an operand no meaning. -/
  | malformedTransaction
  deriving DecidableEq, Repr

/-! ### The memory path (01_the_memory_path.md) -/

/-- Why a transaction was refused (R6), NONE before the first refusal. -/
inductive Reason where
  | noRefusal
  | ownId
  | partRegion
  | entryLocked
  | checkFailed
  | stateForbids
  | getRange
  deriving DecidableEq, Repr

/-- Where a transaction stands on the path (R1). -/
inductive Disposition where
  | refused
  | deferred
  | waiting
  | forwarded
  deriving DecidableEq, Repr

/-- Where a forwarded piece goes: an M-port address, or an offset of a strand's published view whose bank is chosen at
the grant of the read's first piece (R9). -/
inductive PieceTarget where
  | direct (addr : Addr)
  | view (strand : Fin 4) (offset : Nat)
  deriving DecidableEq, Repr

/-- One forwarded piece, with the answer the M-port has given it (R1, R15). -/
structure Piece where
  target : PieceTarget
  count : Nat
  answer : Option (Resp × List Byte)
  deriving DecidableEq, Repr

/-- A record of the Outstanding Table (R1). `seq` numbers records in arrival order; `face` is the face channel that the
window fed at arrival (R38); `pieces` is empty where the spec's field is absent. -/
structure Rec where
  seq : Nat
  dir : Dir
  id : Id
  addr : Addr
  count : Nat
  data : List Byte
  strobes : List Bool
  disposition : Disposition
  pieces : List Piece
  window : Option (Fin 16)
  face : Option (Fin 16)
  captured : Bool
  controlPage : Bool
  response : Option (Resp × List Byte)
  deriving DecidableEq, Repr

/-- A held write (R12): its record, its place in its window, and its hold timer's expiry when it is a front write (R14). -/
structure HeldWrite where
  seq : Nat
  id : Id
  window : Option (Fin 16)
  offset : Nat
  count : Nat
  expiry : Option Nat
  deriving DecidableEq, Repr

/-- A read presented at the S-port and not yet taken (R2). -/
structure PresentedRead where
  id : Id
  addr : Addr
  count : Nat
  deriving DecidableEq, Repr

/-- A write presented at the S-port and not yet taken (R2). -/
structure PresentedWrite where
  id : Id
  addr : Addr
  data : List Byte
  strobes : List Bool
  deriving DecidableEq, Repr

/-- A response returned at the S-port (R7). -/
structure Returned where
  dir : Dir
  id : Id
  resp : Resp
  data : List Byte
  deriving DecidableEq, Repr

/-- A transaction issued at the M-port (R15, R16). -/
structure Issued where
  dir : Dir
  id : Id
  addr : Addr
  count : Nat
  data : List Byte
  strobes : List Bool
  deriving DecidableEq, Repr

/-- What the Path Unit owns (R1, R2, R6, R10, R12, R15). A piece is named by its record's number and its index. -/
structure Path where
  table : List Rec
  held : List HeldWrite
  forwarding : List (Nat × Nat)
  issued : List (Nat × Nat)
  controlInFlight : Option Nat
  refusalReason : Reason
  refusalAddr : Addr
  presentedReads : List PresentedRead
  presentedWrites : List PresentedWrite
  returned : List Returned
  mport : Option Issued
  nextSeq : Nat
  deriving DecidableEq, Repr

/-- What an own transaction is for, which tells who takes its response (R16). A ring read carries the queue order of the
slot it was made for, so that a read discarded by an abort is told from a later one of the same slot (R164). -/
inductive OwnTag where
  | statusBlock (b : Fin 22)
  | zeroRecord
  | ringRecord
  | billetHalf (strand : Fin 4)
  | ringRead (slot : Fin 4) (order : Nat)
  | tileRow
  | tileHeader (slot : Fin 4)
  deriving DecidableEq, Repr

/-- An entry of the Own Traffic Queue (R16); `data` is empty for a read. -/
structure OwnTxn where
  tag : OwnTag
  addr : Addr
  count : Nat
  data : List Byte
  deriving DecidableEq, Repr

/-- Who waits for a place of the Own Traffic Queue (R16, R148). -/
inductive Waiter where
  | statusWriter
  | zeroRecords
  | close (strand : Fin 4)
  | evidence
  deriving DecidableEq, Repr

/-- The Own Traffic Queue and the Memory Arbiter (R16, R17). A waiter carries the number of the event at which it began
to wait; `engine` is the Evidence Engine's own order of transactions that wait with it. -/
structure Own where
  queue : List OwnTxn
  waiters : List (Waiter × Nat)
  engine : List OwnTxn
  reads : List OwnTxn
  writes : List OwnTxn
  waitCount : Nat
  deriving DecidableEq, Repr

/-! ### Line capture and head health (02) -/

/-- A Line Assembler (R31): `filling` holds while a line is being received. The carry is kept as every byte of the line
received so far, so its length is the expected offset (log 16). -/
structure Assembler where
  filling : Bool
  line : Nat
  carry : List Byte
  stamp : Nat
  gap : Bool
  lastCompleted : Option Nat
  deriving DecidableEq, Repr

inductive HeadState where
  | disabled
  | active
  | passive
  | off
  | recovering
  deriving DecidableEq, Repr

/-- A Head Health (R36). -/
structure Head where
  state : HeadState
  errors : Nat
  warning : Bool
  goodRun : Nat
  deriving DecidableEq, Repr

/-- The face capture counters (R44). -/
structure CaptureCounts where
  completed : Nat
  torn : Nat
  sequenceGaps : Nat
  memoryErrors : Nat
  restarts : Nat
  deriving DecidableEq, Repr

/-! ### Surface model and line results (04) -/

inductive ModelState where
  | disabled
  | warmUp
  | ready
  | suspended
  deriving DecidableEq, Repr

/-- A Surface Model (R67): backgrounds in units of 1/256, one for each cell 0 to 511. -/
structure Model where
  state : ModelState
  forView : Bool
  forHead : Bool
  warmUp : Nat
  background : Vector Nat 512
  lastStamp : Option Nat
  deriving DecidableEq, Repr

/-- The face counters of the Surface Model (R84). -/
structure ModelCounts where
  admittedLines : Nat
  skipped : Nat
  late : Nat
  noisy : Nat
  queued : Nat
  dropped : Nat
  deriving DecidableEq, Repr

/-- A segment of a line (R77). -/
structure Segment where
  first : Nat
  last : Nat
  peak : Nat
  deriving DecidableEq, Repr

/-- A line result (R80). -/
structure LineResult where
  face : Fin 16
  stamp : Nat
  ringLine : Nat
  noisy : Bool
  gap : Bool
  lowConf : Bool
  segments : List Segment
  deriving DecidableEq, Repr

/-- An entry of the Line Result Queue (R81). -/
inductive QueueEntry where
  | result (r : LineResult)
  | boundary (strand : Fin 4) (b : Nat)
  | stop (strand : Fin 4) (final : Nat)
  deriving DecidableEq, Repr

/-! ### The Track Table (05) -/

/-- The fields of a track record other than its state (R85). -/
structure Track where
  face : Fin 16
  firstTravel : Nat
  lastTravel : Nat
  firstRing : Nat
  lastRing : Nat
  minCell : Nat
  maxCell : Nat
  spanFirst : Nat
  spanLast : Nat
  lines : Nat
  peak : Nat
  sum : Nat
  edge : Bool
  lowConf : Bool
  cutSplit : Bool
  deriving DecidableEq, Repr

/-- An entry of the Track Table (R85): its state, and its fields, which have no meaning while it is FREE. -/
structure TrackEntry where
  isOpen : Bool
  fields : Track
  deriving DecidableEq, Repr

/-- The track counters of a face (R111). -/
structure TrackCounts where
  openTracks : Nat
  opened : Nat
  splits : Nat
  findings : Nat
  oscMarks : Nat
  scales : Nat
  evicted : Nat
  droppedSegments : Nat
  discardedResults : Nat
  gapResults : Nat
  deriving DecidableEq, Repr

/-- Everything kept for one face channel (R36, R44, R67, R84, R89, R111). -/
structure Face where
  head : Head
  capture : CaptureCounts
  model : Model
  counts : ModelCounts
  tracks : TrackCounts
  queuedCount : Nat
  staleCount : Nat
  deriving DecidableEq, Repr

/-! ### Strand travel and cuts (03) -/

inductive StrandState where
  | idle
  | casting
  | held
  | stopping
  deriving DecidableEq, Repr

inductive StopPhase where
  | owed
  | queued
  | taken
  deriving DecidableEq, Repr

inductive ViewFlag where
  | clear
  | set
  | acked
  deriving DecidableEq, Repr

/-- Why the last rejected cut was rejected (R57), NONE before the first. -/
inductive Reject where
  | noReject
  | stateForbids
  | shortTravel
  | notAfter
  | shortBillet
  | pending
  deriving DecidableEq, Repr

/-- An entry of the gap list (R64): bit f of the mask is face f; `upTo` is absent while the entry is open. -/
structure GapEntry where
  mask : BitVec 4
  start : Nat
  upTo : Option Nat
  deriving DecidableEq, Repr

/-- A Strand Travel Unit (R45, R66). Timers are held as the time base reading of their expiry, absent when stopped.
`viewSettled` is the debounce's own (R61): the reading at which the view level last changed, or of the reset release; a change
of the sampled input counts from then at the earliest. -/
structure StrandUnit where
  state : StrandState
  travel : Nat
  fraction : Nat
  lastPulse : Option Nat
  holdTimer : Option Nat
  comparator : Option Nat
  lastBoundary : Nat
  boundarySeen : Bool
  pendingBoundary : Option Nat
  stopMarker : Option (StopPhase × Nat)
  billetNumber : BitVec 32
  viewActive : Bool
  viewSettled : Nat
  viewFlag : ViewFlag
  watched : BitVec 4
  covered : BitVec 4
  gaps : List GapEntry
  glitches : Nat
  heldCount : Nat
  acceptedCuts : Nat
  rejectedCuts : Nat
  viewBlocked : Nat
  gapMerges : Nat
  lastReject : Reject
  deriving DecidableEq, Repr

/-! ### The Mark Predictor (06) -/

inductive PredictorState where
  | off
  | seeking
  | locked
  | coasting
  deriving DecidableEq, Repr

/-- A Mark Predictor (R113, R125): the pitch in units of 1/256 tu. -/
structure Predictor where
  state : PredictorState
  pitch : Nat
  pulseTravel : Nat
  pulseFraction : Nat
  pulseValid : Bool
  haltMark : Bool
  candidate : Option Nat
  lastMark : Nat
  nextMark : Nat
  missCount : Nat
  pulses : Nat
  pitchUsed : Nat
  pitchRejected : Nat
  haltDiscards : Nat
  observations : Nat
  locks : Nat
  hits : Nat
  duplicates : Nat
  strays : Nat
  misses : Nat
  lockLosses : Nat
  deriving DecidableEq, Repr

/-! ### Findings, hold lists and billet records (07) -/

/-- The classes that are findings (R107). -/
inductive FindingClass where
  | corner
  | longitudinal
  | transverse
  | markRoot
  deriving DecidableEq, Repr

/-- What a filter entry asks for (R128). -/
inductive Action where
  | count
  | publish
  | evidence
  deriving DecidableEq, Repr

/-- The evidence state of a finding (R133). -/
inductive EvidenceState where
  | notAsked
  | assigned
  | busy
  | noTile
  | preEmpted
  deriving DecidableEq, Repr

/-- A finding record (R126), with the key formed at its close (R127). -/
structure Finding where
  strand : Fin 4
  face : Fin 4
  cls : FindingClass
  severity : Nat
  lowConf : Bool
  evicted : Bool
  interrupted : Bool
  cutSplit : Bool
  markWindow : Bool
  key : BitVec 16
  filterHit : Option (Fin 8)
  action : Action
  firstTravel : Nat
  length : Nat
  minCell : Nat
  maxCell : Nat
  lines : Nat
  peak : Nat
  evidence : EvidenceState
  tile : Option (Fin 64)
  deriving DecidableEq, Repr

/-- A held entry of the Hold Pool (R134): its number and its finding. -/
structure PoolEntry where
  number : Nat
  finding : Finding
  deriving DecidableEq, Repr

/-- One count for each finding class. -/
structure ClassCounts where
  corner : Nat
  longitudinal : Nat
  transverse : Nat
  markRoot : Nat
  deriving DecidableEq, Repr

/-- The overflow tally (R136). -/
structure Tally where
  count : Nat
  classes : ClassCounts
  worst : Nat
  deriving DecidableEq, Repr

inductive Bank where
  | bankA
  | bankB
  deriving DecidableEq, Repr

/-- The bank not published is the working bank (R140). -/
def Bank.other : Bank → Bank
  | .bankA => .bankB
  | .bankB => .bankA

/-- The progress of a close (R140). -/
inductive CloseState where
  | idle
  | taking
  | recording
  deriving DecidableEq, Repr

inductive CloseKind where
  | boundary
  | final
  deriving DecidableEq, Repr

/-- The billet record being built (R141, R145). -/
structure Working where
  billetNumber : BitVec 32
  first : Bool
  final : Bool
  overflow : Bool
  coverageLost : Bool
  head : Nat
  tail : Nat
  length : Nat
  classes : ClassCounts
  severity3 : Nat
  worst : Nat
  published : Nat
  unpublished : Nat
  unlisted : Nat
  evidenceRequested : Nat
  coverageMask : BitVec 4
  firstRing : Option Nat
  deriving DecidableEq, Repr

/-- What the Billet Unit holds for one strand (R132, R134, R136, R140, R149). The working bank is the other of the
published bank. `halvesQueued` and `halvesAnswered` follow the two record writes (R145, R146). -/
structure Billet where
  published : Bank
  headBoundary : Nat
  firstPending : Bool
  close : CloseState
  inHand : Option (CloseKind × Nat)
  finalWaiting : Option Nat
  working : Working
  halvesQueued : Nat
  halvesAnswered : Nat
  tally : Tally
  holdList : List PoolEntry
  alert : Bool
  alertTimer : Option Nat
  findings : Nat
  listed : Nat
  unlisted : Nat
  alerts : Nat
  publishedCount : Nat
  unpublishedCount : Nat
  discardedHolds : Nat
  billetsClosed : Nat
  deriving DecidableEq, Repr

/-- Everything kept for one strand. -/
structure Strand where
  unit : StrandUnit
  predictor : Predictor
  billet : Billet
  deriving DecidableEq, Repr

/-- The part-wide state of the Billet Unit and the Finding Filter (R129, R138, R149). -/
structure Ring where
  put : Nat
  writesPending : Nat
  written : Nat
  full : Nat
  noHit : Nat
  hits : Vector Nat 8
  deriving DecidableEq, Repr

/-! ### Evidence capture (08) -/

inductive TileState where
  | free
  | filling
  | ready
  deriving DecidableEq, Repr

inductive SlotState where
  | idle
  | queued
  | copying
  deriving DecidableEq, Repr

/-- How a copy ended (R152). -/
inductive Outcome where
  | complete
  | clipped
  | overrun
  | aborted
  deriving DecidableEq, Repr

/-- A copy slot (R152). `rowPos` is how many bytes of the row being read have been returned (R161). -/
structure Slot where
  state : SlotState
  severity : Nat
  cls : FindingClass
  face : Fin 16
  firstTravel : Nat
  lastTravel : Nat
  window : Fin 16
  tile : Fin 64
  poolEntry : Option Nat
  order : Nat
  oldestLine : Nat
  rowCount : Nat
  firstCell : Nat
  lastCell : Nat
  byteOffset : Nat
  rowBytes : Nat
  clipped : Bool
  rowsReturned : Nat
  rowPos : Nat
  readOutstanding : Bool
  outcome : Option Outcome
  readErrors : Nat
  deriving DecidableEq, Repr

/-- The Evidence Engine (R151, R152, R168). -/
structure Evidence where
  tiles : Vector TileState 64
  slots : Vector Slot 4
  nextOrder : Nat
  requests : Nat
  evidenceOff : Nat
  assigned : Nat
  busy : Nat
  noTile : Nat
  preEmptions : Nat
  complete : Nat
  clipped : Nat
  overrun : Nat
  aborted : Nat
  released : Nat
  readErrors : Nat
  deriving DecidableEq, Repr

/-! ### Control and status (09) -/

inductive PartState where
  | pass
  | starting
  | run
  deriving DecidableEq, Repr

/-- The reportable conditions (R182). -/
inductive Cause where
  | billet
  | finding
  | ringFull
  | head
  | view
  | held
  | cutReject
  | glitch
  | markLost
  | evidence
  | tilesOut
  | trackLimit
  | refused
  | memErr
  deriving DecidableEq, Repr

/-- What the Status Writer keeps for one block (R172, R179). `sinceStarting`: the outstanding write was issued since the
last entry to STARTING. -/
structure BlockMarks where
  dirty : Bool
  periodic : Bool
  outstanding : Bool
  firstWrite : Bool
  sinceStarting : Bool
  sequence : BitVec 32
  deriving DecidableEq, Repr

/-- The cause set, one bit for each of the 14 causes in the order of R185's cause table (R182). `carried`: pending in the
outstanding block-0 write's contents and ever since (R183). -/
structure Causes where
  pending : BitVec 14
  posted : BitVec 14
  carried : BitVec 14
  deriving DecidableEq, Repr

/-- The state of the part, and the queue of commands waiting. -/
structure State where
  resetLow : Bool
  ctlStrap : BitVec 20
  ownId : Id
  timeBase : Nat
  path : Path
  own : Own
  shadow : List Host.Cell
  part : PartState
  zeroToQueue : Nat
  zeroUnanswered : Nat
  statusTimer : Option Nat
  marks : Vector BlockMarks 22
  causes : Causes
  assemblers : Vector Assembler 16
  faces : Vector Face 16
  strands : Vector Strand 4
  lineQueue : List QueueEntry
  tracks : Vector TrackEntry 64
  ring : Ring
  evidence : Evidence
  eventNumber : Nat
  choiceNumber : Nat
  pending : List Instr
  deriving DecidableEq, Repr

/-! ### Reset values -/

def Path.reset : Path :=
  { table := [], held := [], forwarding := [], issued := [], controlInFlight := none, refusalReason := .noRefusal,
    refusalAddr := 0, presentedReads := [], presentedWrites := [], returned := [], mport := none, nextSeq := 0 }

def Own.reset : Own :=
  { queue := [], waiters := [], engine := [], reads := [], writes := [], waitCount := 0 }

def Assembler.reset : Assembler :=
  { filling := false, line := 0, carry := [], stamp := 0, gap := false, lastCompleted := none }

def Head.reset : Head := { state := .disabled, errors := 0, warning := false, goodRun := 0 }

def CaptureCounts.zero : CaptureCounts :=
  { completed := 0, torn := 0, sequenceGaps := 0, memoryErrors := 0, restarts := 0 }

def Model.reset : Model :=
  { state := .disabled, forView := false, forHead := false, warmUp := 0, background := Vector.replicate 512 0,
    lastStamp := none }

def ModelCounts.zero : ModelCounts :=
  { admittedLines := 0, skipped := 0, late := 0, noisy := 0, queued := 0, dropped := 0 }

/-- A track record with every field zero (R85, R112). -/
def Track.zero : Track :=
  { face := 0, firstTravel := 0, lastTravel := 0, firstRing := 0, lastRing := 0, minCell := 0, maxCell := 0, spanFirst := 0,
    spanLast := 0, lines := 0, peak := 0, sum := 0, edge := false, lowConf := false, cutSplit := false }

/-- A FREE entry with its fields zero (R85, R112). -/
def TrackEntry.free : TrackEntry := { isOpen := false, fields := .zero }

def TrackCounts.zero : TrackCounts :=
  { openTracks := 0, opened := 0, splits := 0, findings := 0, oscMarks := 0, scales := 0, evicted := 0,
    droppedSegments := 0, discardedResults := 0, gapResults := 0 }

def Face.reset : Face :=
  { head := .reset, capture := .zero, model := .reset, counts := .zero, tracks := .zero, queuedCount := 0,
    staleCount := 0 }

def StrandUnit.reset : StrandUnit :=
  { state := .idle, travel := 0, fraction := 0, lastPulse := none, holdTimer := none, comparator := none,
    lastBoundary := 0, boundarySeen := false, pendingBoundary := none, stopMarker := none, billetNumber := 0,
    viewActive := false, viewSettled := 0, viewFlag := .clear, watched := 0, covered := 0, gaps := [], glitches := 0, heldCount := 0,
    acceptedCuts := 0, rejectedCuts := 0, viewBlocked := 0, gapMerges := 0, lastReject := .noReject }

def Predictor.reset : Predictor :=
  { state := .off, pitch := 0, pulseTravel := 0, pulseFraction := 0, pulseValid := false, haltMark := false,
    candidate := none, lastMark := 0, nextMark := 0, missCount := 0, pulses := 0, pitchUsed := 0, pitchRejected := 0,
    haltDiscards := 0, observations := 0, locks := 0, hits := 0, duplicates := 0, strays := 0, misses := 0,
    lockLosses := 0 }

def ClassCounts.zero : ClassCounts := { corner := 0, longitudinal := 0, transverse := 0, markRoot := 0 }

def Tally.zero : Tally := { count := 0, classes := .zero, worst := 0 }

def Working.cleared : Working :=
  { billetNumber := 0, first := false, final := false, overflow := false, coverageLost := false, head := 0, tail := 0,
    length := 0, classes := .zero, severity3 := 0, worst := 0, published := 0, unpublished := 0, unlisted := 0,
    evidenceRequested := 0, coverageMask := 0, firstRing := none }

def Billet.reset : Billet :=
  { published := .bankA, headBoundary := 0, firstPending := false, close := .idle, inHand := none, finalWaiting := none,
    working := .cleared, halvesQueued := 0, halvesAnswered := 0, tally := .zero, holdList := [], alert := false,
    alertTimer := none, findings := 0, listed := 0, unlisted := 0, alerts := 0, publishedCount := 0,
    unpublishedCount := 0, discardedHolds := 0, billetsClosed := 0 }

def Strand.reset : Strand := { unit := .reset, predictor := .reset, billet := .reset }

def Ring.reset : Ring :=
  { put := 0, writesPending := 0, written := 0, full := 0, noHit := 0, hits := Vector.replicate 8 0 }

/-- A slot with every field cleared (R152). The severity, class, face and other fields of its finding, which have no null value
in the spec, hold 0, the class CORNER (log 39). -/
def Slot.cleared : Slot :=
  { state := .idle, severity := 0, cls := .corner, face := 0, firstTravel := 0, lastTravel := 0, window := 0, tile := 0,
    poolEntry := none, order := 0, oldestLine := 0, rowCount := 0, firstCell := 0, lastCell := 0, byteOffset := 0,
    rowBytes := 0, clipped := false, rowsReturned := 0, rowPos := 0, readOutstanding := false, outcome := none,
    readErrors := 0 }

def Evidence.reset : Evidence :=
  { tiles := Vector.replicate 64 .free, slots := Vector.replicate 4 .cleared, nextOrder := 0, requests := 0,
    evidenceOff := 0, assigned := 0, busy := 0, noTile := 0, preEmptions := 0, complete := 0, clipped := 0, overrun := 0,
    aborted := 0, released := 0, readErrors := 0 }

def BlockMarks.reset : BlockMarks :=
  { dirty := false, periodic := false, outstanding := false, firstWrite := false, sinceStarting := false, sequence := 0 }

def Causes.clear : Causes := { pending := 0, posted := 0, carried := 0 }

/-- The part right after the release of RESET_N (R19, R31, R36, R44, R45, R67, R85, R112, R113, R132, R134, R138, R140,
R150, R152, R169, R179, R182), with both straps sampled as 0 (log 1) and no command waiting. -/
def State.reset : State :=
  { resetLow := false, ctlStrap := 0, ownId := 0, timeBase := 0, path := .reset, own := .reset, shadow := [],
    part := .pass, zeroToQueue := 0, zeroUnanswered := 0, statusTimer := none, marks := Vector.replicate 22 .reset,
    causes := .clear, assemblers := Vector.replicate 16 .reset, faces := Vector.replicate 16 .reset,
    strands := Vector.replicate 4 .reset, lineQueue := [], tracks := Vector.replicate 64 .free, ring := .reset,
    evidence := .reset, eventNumber := 0, choiceNumber := 0, pending := [] }

end Sys2Proof.Machine
end

