-- ==== Sys2Proof/Machine/Ops.lean ====
section
/-!
DEFINITION. The named operations over bytes, over the shadow, and over the parts of State. Every other file of the
machine reads and writes the state through these.
-/
namespace Sys2Proof.Machine

/-! ### Bytes (R184) -/

/-- The low n bytes of a number, least significant first (R184). -/
def leBytes : Nat → Nat → List Byte
  | 0, _ => []
  | n + 1, v => BitVec.ofNat 8 v :: leBytes n (v / 256)

/-- The number that bytes spell, least significant first (R184). -/
def leNat : List Byte → Nat
  | [] => 0
  | b :: rest => b.toNat + 256 * leNat rest

/-- n zero bytes. -/
def zeroBytes (n : Nat) : List Byte := List.replicate n 0

/-- A flag as the bit of weight 2^n (R184). -/
def flagBit (f : Bool) (n : Nat) : Nat := if f then 2 ^ n else 0

/-! ### The shadow as an addressed buffer (R169, R174) -/

/-- The byte at an offset: an offset not listed reads 0, the shadow's reset content (R169). -/
def Memory.read : List Host.Cell → Nat → Byte
  | [], _ => 0
  | c :: rest, a => if c.1 = a then c.2 else Memory.read rest a

/-- The buffer with one byte written, in canonical form. -/
def Memory.write : List Host.Cell → Nat → Byte → List Host.Cell
  | [], a, v => if v = 0 then [] else [(a, v)]
  | c :: rest, a, v =>
    if a < c.1 then (if v = 0 then c :: rest else (a, v) :: c :: rest)
    else if a = c.1 then (if v = 0 then rest else (a, v) :: rest)
    else c :: Memory.write rest a v

/-- The canonical form: offsets strictly rising, no byte 0 listed. -/
def Memory.wf : List Host.Cell → Bool
  | [] => true
  | c :: rest => c.2 != 0 && rest.all (fun d => c.1 < d.1) && Memory.wf rest

/-- Several bytes written, in list order. -/
def Memory.writeAll (m : List Host.Cell) : List Host.Cell → List Host.Cell
  | [] => m
  | c :: rest => Memory.writeAll (Memory.write m c.1 c.2) rest

/-- n bytes read upward from an offset. -/
def Memory.readBytes (m : List Host.Cell) (a : Nat) : Nat → List Byte
  | 0 => []
  | n + 1 => Memory.read m a :: Memory.readBytes m (a + 1) n

/-- A field of n bytes as a number (R184). -/
def Memory.field (m : List Host.Cell) (a n : Nat) : Nat := leNat (Memory.readBytes m a n)

/-! ### Counters -/

/-- A counter one higher, staying at 0xFFFFFFFF (R44, R66, R84, R111, R125, R149, R168). -/
def bump (n : Nat) : Nat := min (n + 1) Config.counterTop

/-- A counter n higher, staying at 0xFFFFFFFF. -/
def bumpBy (k n : Nat) : Nat := min (n + k) Config.counterTop

/-! ### Naming the parts of State -/

/-- The face channel of face f of strand s is 4s + f (00_scope.md, Conventions). -/
def faceOf (k : Fin 4) (f : Fin 4) : Fin 16 := ⟨4 * k.val + f.val, by omega⟩

/-- The strand of a face channel. -/
def strandOf (k : Fin 16) : Fin 4 := ⟨k.val / 4, by omega⟩

/-- The face within its strand of a face channel. -/
def faceIn (k : Fin 16) : Fin 4 := ⟨k.val % 4, by omega⟩

/-- Status block 2 + s (00_scope.md, Conventions). -/
def strandBlock (k : Fin 4) : Fin 22 := ⟨2 + k.val, by omega⟩

/-- Status block 6 + k. -/
def faceBlock (k : Fin 16) : Fin 22 := ⟨6 + k.val, by omega⟩

def State.strand (s : State) (k : Fin 4) : Strand := vget s.strands k
def State.face (s : State) (k : Fin 16) : Face := vget s.faces k
def State.assembler (s : State) (w : Fin 16) : Assembler := vget s.assemblers w
/-- The track of an OPEN entry of the Track Table; a FREE entry holds none (R85). -/
def State.track (s : State) (e : Fin 64) : Option Track :=
  if (vget s.tracks e).isOpen then some (vget s.tracks e).fields else none
def State.slot (s : State) (i : Fin 4) : Slot := vget s.evidence.slots i
def State.tile (s : State) (i : Fin 64) : TileState := vget s.evidence.tiles i
def State.mark (s : State) (b : Fin 22) : BlockMarks := vget s.marks b

def State.setStrand (s : State) (k : Fin 4) (x : Strand) : State := { s with strands := vset s.strands k x }
def State.setFace (s : State) (k : Fin 16) (x : Face) : State := { s with faces := vset s.faces k x }
def State.setAssembler (s : State) (w : Fin 16) (x : Assembler) : State :=
  { s with assemblers := vset s.assemblers w x }
/-- An entry holding a track, or FREE with its fields zero, which have no meaning there (R85; log 40). -/
def trackEntry : Option Track → TrackEntry
  | some t => { isOpen := true, fields := t }
  | none => .free
def State.setTrack (s : State) (e : Fin 64) (x : Option Track) : State :=
  { s with tracks := vset s.tracks e (trackEntry x) }
def State.setSlot (s : State) (i : Fin 4) (x : Slot) : State :=
  { s with evidence := { s.evidence with slots := vset s.evidence.slots i x } }
def State.setTile (s : State) (i : Fin 64) (x : TileState) : State :=
  { s with evidence := { s.evidence with tiles := vset s.evidence.tiles i x } }
def State.setMark (s : State) (b : Fin 22) (x : BlockMarks) : State := { s with marks := vset s.marks b x }

def State.unit (s : State) (k : Fin 4) : StrandUnit := (s.strand k).unit
def State.predictor (s : State) (k : Fin 4) : Predictor := (s.strand k).predictor
def State.billet (s : State) (k : Fin 4) : Billet := (s.strand k).billet

def State.setUnit (s : State) (k : Fin 4) (x : StrandUnit) : State :=
  s.setStrand k { s.strand k with unit := x }
def State.setPredictor (s : State) (k : Fin 4) (x : Predictor) : State :=
  s.setStrand k { s.strand k with predictor := x }
def State.setBillet (s : State) (k : Fin 4) (x : Billet) : State :=
  s.setStrand k { s.strand k with billet := x }

def State.setHead (s : State) (k : Fin 16) (x : Head) : State := s.setFace k { s.face k with head := x }
def State.setCapture (s : State) (k : Fin 16) (x : CaptureCounts) : State := s.setFace k { s.face k with capture := x }
def State.setModel (s : State) (k : Fin 16) (x : Model) : State := s.setFace k { s.face k with model := x }
def State.setCounts (s : State) (k : Fin 16) (x : ModelCounts) : State := s.setFace k { s.face k with counts := x }
def State.setTrackCounts (s : State) (k : Fin 16) (x : TrackCounts) : State :=
  s.setFace k { s.face k with tracks := x }

/-- The first address of the Control Page MiB (R19). -/
def State.ctlBase (s : State) : Nat := s.ctlStrap.toNat * 2 ^ 20

/-- A travel in microseconds of the time base, from milliseconds (00_scope.md, Time). -/
def milliseconds (n : Nat) : Nat := n * 1000

/-! ### Free choices (log 9) -/

/-- One of n things that the spec takes in either order, by the next free choice; no choice where there is only one. -/
def State.choose (s : State) (n : Nat) : Nat × State :=
  if n ≤ 1 then (0, s)
  else (Config.freeChoice s.choiceNumber % n, { s with choiceNumber := s.choiceNumber + 1 })

/-! ### Ordered selection -/

/-- A list with one element put in its place by the strict order given, behind those it does not precede. -/
def insertBy {α : Type} (before : α → α → Bool) (x : α) : List α → List α
  | [] => [x]
  | y :: rest => if before x y then x :: y :: rest else y :: insertBy before x rest

/-- A list in the order given, equals in their list order. -/
def sortBy {α : Type} (before : α → α → Bool) : List α → List α
  | [] => []
  | x :: rest => insertBy before x (sortBy before rest)

end Sys2Proof.Machine
end

