-- ==== Sys2Proof/Machine/Operands.lean ====
section
/-!
DEFINITION. The settings as the shadow holds them: the Control Page areas and their fields (R185), the ranges of the
fields, and the geometry that the settings give (R21 to R23, R151, R156).
-/
namespace Sys2Proof.Machine

/-! ### Where the areas lie (R185) -/

def globalAt : Nat := 0x0000
def unlockedAt : Nat := 0x0100
def maskAt : Nat := 0x0100
def getAt : Nat := 0x0108
def windowAt (w : Fin 16) : Nat := 0x0400 + w.val * 0x40
def faceAt (k : Fin 16) : Nat := 0x0800 + k.val * 0x40
def strandAt (k : Fin 4) : Nat := 0x0C00 + k.val * 0x80
def filterAt (i : Fin 8) : Nat := 0x0E00 + i.val * 0x10

/-- The offset of the n-th action word (R177): STRAND START, STRAND STOP, CUT NOW, HEAD RESTART, RELEASE TILES,
ACK CAUSES, ACK VIEW, unused. -/
def actionAt (n : Nat) : Nat := 0x0200 + n * 8

/-- The offsets whose bytes the shadow keeps: every area but the action words, which hold no shadow value (R177). -/
def shadowed (off : Nat) : Bool :=
  off < 0x0110 || (0x0400 ≤ off && off < 0x0E80)

/-! ### Global Settings (R150, R170, R185) -/

structure Globals where
  enable : Nat
  evidenceEnable : Nat
  tileSizeLog : Nat
  tileCount : Nat
  marginLines : Nat
  marginCells : Nat
  guardLines : Nat
  evidenceBase : Nat
  holdLimit : Nat
  statusPeriod : Nat
  deriving DecidableEq, Repr

def globals (m : List Host.Cell) : Globals :=
  { enable := Memory.field m 0x00 1
    evidenceEnable := Memory.field m 0x01 1
    tileSizeLog := Memory.field m 0x02 1
    tileCount := Memory.field m 0x03 1
    marginLines := Memory.field m 0x04 1
    marginCells := Memory.field m 0x05 1
    guardLines := Memory.field m 0x06 2
    evidenceBase := Memory.field m 0x08 5
    holdLimit := Memory.field m 0x10 2
    statusPeriod := Memory.field m 0x12 2 }

def State.globals (s : State) : Globals := Machine.globals s.shadow

/-- TileBytes: 64 KiB times 2 to the power TileSizeLog (R150). -/
def Globals.tileBytes (g : Globals) : Nat := 65536 * 2 ^ g.tileSizeLog

/-- The pool's size for the overlap tests: empty when TileCount is 0 or TileSizeLog above 4 (R24). -/
def Globals.poolSize (g : Globals) : Nat :=
  if g.tileSizeLog > 4 then 0 else g.tileCount * g.tileBytes

/-! ### The unlocked words (R176, R185) -/

def State.causeMask (s : State) : BitVec 16 := BitVec.ofNat 16 (Memory.field s.shadow maskAt 2)
def getIndex (m : List Host.Cell) : Nat := Memory.field m getAt 2
def State.getIndex (s : State) : Nat := Machine.getIndex s.shadow

/-! ### The Window Table (R20, R185) -/

structure Window where
  enable : Nat
  sizeLog : Nat
  idCode : Byte
  idMask : Byte
  remap : Nat
  pixelFormat : Nat
  faceChannel : Nat
  mirror : Nat
  base : Nat
  remapBase : Nat
  ringLines : Nat
  pixelsPerLine : Nat
  stride : Nat
  firstCell : Nat
  lastCell : Nat
  deriving DecidableEq, Repr

def window (m : List Host.Cell) (w : Fin 16) : Window :=
  let a := windowAt w
  { enable := Memory.field m (a + 0x00) 1
    sizeLog := Memory.field m (a + 0x01) 1
    idCode := Memory.read m (a + 0x02)
    idMask := Memory.read m (a + 0x03)
    remap := Memory.field m (a + 0x04) 1
    pixelFormat := Memory.field m (a + 0x05) 1
    faceChannel := Memory.field m (a + 0x06) 1
    mirror := Memory.field m (a + 0x07) 1
    base := Memory.field m (a + 0x08) 5
    remapBase := Memory.field m (a + 0x10) 5
    ringLines := Memory.field m (a + 0x18) 2
    pixelsPerLine := Memory.field m (a + 0x1A) 2
    stride := Memory.field m (a + 0x1C) 4
    firstCell := Memory.field m (a + 0x20) 2
    lastCell := Memory.field m (a + 0x22) 2 }

def State.window (s : State) (w : Fin 16) : Window := Machine.window s.shadow w

/-- The entry takes part: its Enable is 1 (R20). -/
def windowEnabled (m : List Host.Cell) (w : Fin 16) : Bool := Memory.read m (windowAt w) == 1
def State.windowEnabled (s : State) (w : Fin 16) : Bool := Machine.windowEnabled s.shadow w

/-- The window size, 2 to the power SizeLog (R20). -/
def Window.size (x : Window) : Nat := 2 ^ x.sizeLog

/-- The cells of a line: PixelsPerLine / 8 (R20). -/
def Window.cells (x : Window) : Nat := x.pixelsPerLine / 8

/-- Bytes per cell of the format: 8, 10, 12 (R21). -/
def cellBytes (format : Nat) : Nat := if format = 0 then 8 else if format = 1 then 10 else 12

def Window.cellBytes (x : Window) : Nat := Machine.cellBytes x.pixelFormat

/-- LineBytes: cells times bytes per cell (R21). -/
def Window.lineBytes (x : Window) : Nat := x.cells * x.cellBytes

/-- The landing base of the window's writes (R16): RemapBase when it remaps, its own base otherwise. -/
def Window.landing (x : Window) : Nat := if x.remap = 1 then x.remapBase else x.base

/-- Where cell c begins in a line's bytes (R23). -/
def Window.cellStart (x : Window) (c : Nat) : Nat :=
  if x.mirror = 1 then x.lineBytes - (c + 1) * x.cellBytes else c * x.cellBytes

/-- The face channel of an entry, as a channel number. -/
def Window.channel (x : Window) : Fin 16 := ⟨x.faceChannel % 16, by omega⟩

/-- The fields of an entry lie in their ranges (R20, checks 1 and 2 and 3 of R24). -/
def Window.fieldsOk (x : Window) : Bool :=
  x.enable ≤ 1 && 12 ≤ x.sizeLog && x.sizeLog ≤ 28 && x.remap ≤ 1 && x.pixelFormat ≤ 2 && x.faceChannel ≤ 15 &&
  x.mirror ≤ 1 && x.base % x.size == 0 && x.remapBase % x.size == 0 && 17 ≤ x.ringLines && x.ringLines ≤ 4096 &&
  256 ≤ x.pixelsPerLine && x.pixelsPerLine ≤ 4096 && x.pixelsPerLine % 8 == 0 && x.stride % 64 == 0 &&
  x.firstCell + 4 ≤ x.cells && x.firstCell + 3 ≤ x.lastCell && x.lastCell + 1 ≤ x.cells &&
  x.lineBytes ≤ x.stride && x.stride * x.ringLines ≤ x.size

/-- The ID of a write agrees with the entry's code in every bit the mask sets (R29). -/
def Window.idMatches (x : Window) (id : Id) : Bool := (id ^^^ x.idCode) &&& x.idMask == 0

/-- The enabled entry whose range holds an address (R3); enabled windows do not overlap (R25). -/
def State.lookup (s : State) (addr : Nat) : Option (Fin 16) :=
  (List.finRange 16).find? fun w =>
    s.windowEnabled w && (s.window w).base ≤ addr && addr < (s.window w).base + (s.window w).size

/-- The enabled entry that feeds a face channel (R25). -/
def feeding (m : List Host.Cell) (k : Fin 16) : Option (Fin 16) :=
  (List.finRange 16).find? fun w => Machine.windowEnabled m w && (Machine.window m w).faceChannel == k.val

def State.feeding (s : State) (k : Fin 16) : Option (Fin 16) := Machine.feeding s.shadow k

/-! ### Face Settings (R68) -/

/-- CrackThreshold, 0 used as 1 (R68). -/
def State.crackThreshold (s : State) (k : Fin 16) : Nat := max 1 (Memory.field s.shadow (faceAt k) 1)

/-! ### Strand Settings (R46, R72, R87, R114, R131, R185) -/

structure StrandSettings where
  incInt : Nat
  cutSource : Nat
  incFrac : Nat
  minPulseInterval : Nat
  holdTime : Nat
  cutAt : Nat
  cutPeriod : Nat
  torchDistance : Nat
  minBilletLength : Nat
  startBillet : Nat
  minStep : Nat
  deepContrast : Nat
  gap : Nat
  longMin : Nat
  widthMax : Nat
  transMaxLen : Nat
  transMinCells : Nat
  markSpanCells : Nat
  sevWidth : Nat
  sevLength : Nat
  sevContrast : Nat
  tolerance : Nat
  missLimit : Nat
  alertSeverity : Nat
  nominalPitch : Nat
  pitchMin : Nat
  pitchMax : Nat
  alertTime : Nat
  deriving DecidableEq, Repr

def strandSettings (m : List Host.Cell) (k : Fin 4) : StrandSettings :=
  let a := strandAt k
  { incInt := Memory.field m (a + 0x00) 1
    cutSource := Memory.field m (a + 0x01) 1
    incFrac := Memory.field m (a + 0x02) 2
    minPulseInterval := Memory.field m (a + 0x04) 2
    holdTime := Memory.field m (a + 0x06) 2
    cutAt := Memory.field m (a + 0x08) 4
    cutPeriod := Memory.field m (a + 0x0C) 4
    torchDistance := Memory.field m (a + 0x10) 4
    minBilletLength := Memory.field m (a + 0x14) 4
    startBillet := Memory.field m (a + 0x18) 4
    minStep := Memory.field m (a + 0x1C) 1
    deepContrast := Memory.field m (a + 0x1D) 1
    gap := Memory.field m (a + 0x1E) 2
    longMin := Memory.field m (a + 0x20) 2
    widthMax := Memory.field m (a + 0x22) 2
    transMaxLen := Memory.field m (a + 0x24) 2
    transMinCells := Memory.field m (a + 0x26) 2
    markSpanCells := Memory.field m (a + 0x28) 2
    sevWidth := Memory.field m (a + 0x2A) 2
    sevLength := Memory.field m (a + 0x2C) 4
    sevContrast := Memory.field m (a + 0x30) 1
    tolerance := Memory.field m (a + 0x31) 1
    missLimit := Memory.field m (a + 0x32) 1
    alertSeverity := Memory.field m (a + 0x33) 1
    nominalPitch := Memory.field m (a + 0x34) 2
    pitchMin := Memory.field m (a + 0x36) 2
    pitchMax := Memory.field m (a + 0x38) 2
    alertTime := Memory.field m (a + 0x3A) 2 }

def State.settings (s : State) (k : Fin 4) : StrandSettings := strandSettings s.shadow k

/-- A number from lo to hi. -/
def inRange (lo hi n : Nat) : Bool := lo ≤ n && n ≤ hi

/-- Every Strand Settings field in its range, and the relations among the pitches (R46, R47, R72, R87, R114, R131).
A field whose range is all its width holds needs no test. -/
def StrandSettings.ok (x : StrandSettings) : Bool :=
  (x.incInt != 0 || x.incFrac != 0) && x.cutSource ≤ 3 && 1 ≤ x.minPulseInterval && inRange 1 10000 x.holdTime &&
  (x.cutPeriod == 0 || inRange 256 (2 ^ 24) x.cutPeriod) && inRange 1 (2 ^ 24) x.torchDistance &&
  x.minBilletLength ≤ 2 ^ 24 && 1 ≤ x.deepContrast && 1 ≤ x.gap && 1 ≤ x.longMin && inRange 1 512 x.widthMax &&
  inRange 1 512 x.transMinCells && inRange 1 512 x.markSpanCells && inRange 1 512 x.sevWidth &&
  inRange 1 (2 ^ 24) x.sevLength && 1 ≤ x.sevContrast && inRange 1 15 x.missLimit && x.alertSeverity ≤ 3 &&
  1 ≤ x.pitchMin && x.pitchMin ≤ x.pitchMax && x.pitchMin ≤ x.nominalPitch && x.nominalPitch ≤ x.pitchMax &&
  inRange 1 60000 x.alertTime

/-! ### The Filter Table (R128, R185) -/

structure FilterEntry where
  enable : Nat
  action : Nat
  code : BitVec 16
  mask : BitVec 16
  deriving DecidableEq, Repr

def filterEntry (m : List Host.Cell) (i : Fin 8) : FilterEntry :=
  let a := filterAt i
  { enable := Memory.field m (a + 0x00) 1
    action := Memory.field m (a + 0x01) 1
    code := BitVec.ofNat 16 (Memory.field m (a + 0x02) 2)
    mask := BitVec.ofNat 16 (Memory.field m (a + 0x04) 2) }

def State.filter (s : State) (i : Fin 8) : FilterEntry := filterEntry s.shadow i

def filterEnabled (m : List Host.Cell) (i : Fin 8) : Bool := Memory.read m (filterAt i) == 1

/-- The action a code stands for (R185); an enabled entry holds 0, 1 or 2 (R128). -/
def actionOfCode (n : Nat) : Action := if n = 0 then .count else if n = 1 then .publish else .evidence

/-! ### Ranges of addresses -/

/-- Two ranges of addresses, each a base and a size, share a byte. -/
def overlaps (a n b m : Nat) : Bool := 0 < n && 0 < m && a < b + m && b < a + n

end Sys2Proof.Machine
end

