-- ==== Sys2Proof/Machine/Flags.lean ====
section
/-!
DEFINITION. The flags the part keeps for the host: the cause set and IRQ_N (R182, R183), and the marks of the Status
Writer (R179, R181).
-/
namespace Sys2Proof.Machine

/-- The bit of a cause (R185, cause bits). -/
def Cause.bit : Cause → Nat
  | .billet => 0
  | .finding => 1
  | .ringFull => 2
  | .head => 3
  | .view => 4
  | .held => 5
  | .cutReject => 6
  | .glitch => 7
  | .markLost => 8
  | .evidence => 9
  | .tilesOut => 10
  | .trackLimit => 11
  | .refused => 12
  | .memErr => 13

/-- The mask with that cause's bit alone. -/
def Cause.mask (c : Cause) : BitVec 14 := BitVec.ofNat 14 (2 ^ c.bit)

/-- The dirty mark of a block set (R179). -/
def State.markDirty (s : State) (b : Fin 22) : State := s.setMark b { s.mark b with dirty := true }

/-- The dirty mark of strand k's block, 2 + k, set by an event whose rule names it. -/
def State.markStrand (s : State) (k : Fin 4) : State := s.markDirty (strandBlock k)

/-- The dirty mark of face channel k's block, 6 + k, set by an event whose rule names it. -/
def State.markFace (s : State) (k : Fin 16) : State := s.markDirty (faceBlock k)

/-- The periodic mark of a block set (R179). -/
def State.markPeriodic (s : State) (b : Fin 22) : State := s.setMark b { s.mark b with periodic := true }

/-- A cause is pending. -/
def State.causePending (s : State) (c : Cause) : Bool := s.causes.pending.getLsbD c.bit

/-- A cause is raised (R182): one that is not pending becomes pending and marks block 0 dirty; one already pending is
unchanged and marks nothing. -/
def State.raise (s : State) (c : Cause) : State :=
  if s.causePending c then s
  else { s with causes := { s.causes with pending := s.causes.pending ||| c.mask } }.markDirty 0

/-- A cause raised when a condition holds. -/
def State.raiseIf (s : State) (b : Bool) (c : Cause) : State := if b then s.raise c else s

/-- MEMERR at an ERROR response (R16, R182). -/
def State.memErrOf (s : State) (r : Resp) : State := s.raiseIf (r = .error) .memErr

/-- ACK CAUSES (R178): every named cause becomes not pending and unposted, and is no longer carried by the outstanding
block-0 write; block 0 is marked dirty when a named cause was pending. Bits above the causes are ignored. -/
def State.acknowledge (s : State) (mask : BitVec 16) : State :=
  let m : BitVec 14 := mask.setWidth 14
  let c := s.causes
  let s1 := { s with causes :=
    { pending := c.pending &&& ~~~m, posted := c.posted &&& ~~~m, carried := c.carried &&& ~~~m } }
  if c.pending &&& m = 0 then s1 else s1.markDirty 0

/-- The response to a block-0 write posts the causes it carried that have stayed pending (R183). -/
def State.postCauses (s : State) : State :=
  { s with causes :=
    { s.causes with
      posted := s.causes.posted ||| (s.causes.pending &&& s.causes.carried)
      carried := 0 } }

/-- IRQ_N is asserted while some cause is pending, posted and enabled in the mask of the shadow (R183). -/
def State.irqAsserted (s : State) : Bool :=
  (s.causes.pending &&& s.causes.posted &&& s.causeMask.setWidth 14) != 0

/-- STATUS PERIOD: every block whose periodic mark is set has its dirty mark set (R181). -/
def BlockMarks.atPeriod (m : BlockMarks) : BlockMarks := { m with dirty := m.dirty || m.periodic }

/-- The entry to STARTING marks a block dirty, sets its first-write mark, and leaves a write issued before it unable to
clear that mark (R172, R180). -/
def BlockMarks.atStarting (m : BlockMarks) : BlockMarks :=
  { m with dirty := true, firstWrite := true, sinceStarting := false }

/-- The response to a block's write (R180). -/
def BlockMarks.atResponse (m : BlockMarks) : BlockMarks :=
  { m with outstanding := false, firstWrite := m.firstWrite && !m.sinceStarting, sinceStarting := false }

/-- The issue of a block's write (R180): the marks clear, the sequence count rises by one. -/
def BlockMarks.atIssue (m : BlockMarks) : BlockMarks :=
  { m with dirty := false, periodic := false, outstanding := true, sinceStarting := true, sequence := m.sequence + 1 }

/-- A block whose write may be issued as soon as there is a place (R180). -/
def BlockMarks.qualifies (m : BlockMarks) : Bool := m.dirty && !m.outstanding

/-- The same change made to the marks of every block. -/
def State.mapMarks (s : State) (f : BlockMarks → BlockMarks) : State :=
  { s with marks := vtab fun b => f (s.mark b) }

end Sys2Proof.Machine
end

