-- ==== Sys2Proof/Machine/Formats.lean ====
section
/-!
DEFINITION. The bytes of every record the part writes (R184, R186, sections 10.4 to 10.8 of Memory Formats) and the
finding key (R127).
-/
namespace Sys2Proof.Machine

/-! ### Codes (R186) -/

def FindingClass.code : FindingClass → Nat
  | .corner => 1
  | .longitudinal => 2
  | .transverse => 3
  | .markRoot => 4

def Action.code : Action → Nat
  | .count => 0
  | .publish => 1
  | .evidence => 2

def EvidenceState.code : EvidenceState → Nat
  | .notAsked => 0
  | .assigned => 1
  | .busy => 2
  | .noTile => 3
  | .preEmpted => 4

def Outcome.code : Outcome → Nat
  | .complete => 1
  | .clipped => 2
  | .overrun => 3
  | .aborted => 4

def PartState.code : PartState → Nat
  | .pass => 0
  | .starting => 1
  | .run => 2

def Reason.code : Reason → Nat
  | .noRefusal => 0
  | .ownId => 1
  | .partRegion => 2
  | .entryLocked => 3
  | .checkFailed => 4
  | .stateForbids => 5
  | .getRange => 6

def StrandState.code : StrandState → Nat
  | .idle => 0
  | .casting => 1
  | .held => 2
  | .stopping => 3

/-- The stop marker's code: 0 when absent (10.8). -/
def stopCode : Option (StopPhase × Nat) → Nat
  | none => 0
  | some (.owed, _) => 1
  | some (.queued, _) => 2
  | some (.taken, _) => 3

def ViewFlag.code : ViewFlag → Nat
  | .clear => 0
  | .set => 1
  | .acked => 2

def Reject.code : Reject → Nat
  | .noReject => 0
  | .stateForbids => 1
  | .shortTravel => 2
  | .notAfter => 3
  | .shortBillet => 4
  | .pending => 5

def Bank.code : Bank → Nat
  | .bankA => 0
  | .bankB => 1

def CloseState.code : CloseState → Nat
  | .idle => 0
  | .taking => 1
  | .recording => 2

def PredictorState.code : PredictorState → Nat
  | .off => 0
  | .seeking => 1
  | .locked => 2
  | .coasting => 3

def SlotState.code : SlotState → Nat
  | .idle => 0
  | .queued => 1
  | .copying => 2

def HeadState.code : HeadState → Nat
  | .disabled => 0
  | .active => 1
  | .passive => 2
  | .off => 3
  | .recovering => 4

def ModelState.code : ModelState → Nat
  | .disabled => 0
  | .warmUp => 1
  | .ready => 2
  | .suspended => 3

/-- A number, or all ones in its field of n bytes when absent (R186). -/
def orOnes (n : Nat) : Option Nat → Nat
  | none => 256 ^ n - 1
  | some v => v

/-! ### The finding key (R127, 10.4) -/

def findingKey (cls : FindingClass) (severity : Nat) (k f : Fin 4)
    (lowConf evicted interrupted cutSplit markWindow : Bool) : BitVec 16 :=
  BitVec.ofNat 16 (cls.code + severity * 2 ^ 3 + k.val * 2 ^ 5 + f.val * 2 ^ 7 + flagBit lowConf 9 + flagBit evicted 10 +
    flagBit interrupted 11 + flagBit cutSplit 12 + flagBit markWindow 13)

/-! ### The Findings Ring record (10.4) -/

def ringRecord (f : Finding) (billet : BitVec 32) (head : Nat) : List Byte :=
  leBytes 4 billet.toNat ++ leBytes 1 f.strand.val ++ leBytes 1 f.face.val ++ leBytes 1 f.cls.code ++
  leBytes 1 f.severity ++
  leBytes 1 (flagBit f.lowConf 0 + flagBit f.evicted 1 + flagBit f.interrupted 2 + flagBit f.cutSplit 3 +
    flagBit f.markWindow 4) ++
  leBytes 1 (orOnes 1 (f.filterHit.map (·.val))) ++ leBytes 1 f.action.code ++ leBytes 1 f.evidence.code ++
  leBytes 1 (orOnes 1 (f.tile.map (·.val))) ++ zeroBytes 1 ++ leBytes 2 f.key.toNat ++ leBytes 8 f.firstTravel ++
  leBytes 8 (f.firstTravel - head) ++ leBytes 8 f.length ++ leBytes 2 f.minCell ++ leBytes 2 f.maxCell ++
  leBytes 2 f.lines ++ leBytes 1 f.peak ++ zeroBytes 17

/-! ### The billet record (10.6) -/

def billetFirstHalf (k : Fin 4) (w : Working) : List Byte :=
  leBytes 4 w.billetNumber.toNat ++ leBytes 1 k.val ++
  leBytes 1 (flagBit w.first 0 + flagBit w.final 1 + flagBit w.overflow 2 + flagBit w.coverageLost 3) ++
  leBytes 1 w.worst ++ leBytes 1 w.coverageMask.toNat ++ leBytes 8 w.head ++ leBytes 8 w.tail ++ leBytes 8 w.length ++
  leBytes 4 w.classes.corner ++ leBytes 4 w.classes.longitudinal ++ leBytes 4 w.classes.transverse ++
  leBytes 4 w.classes.markRoot ++ leBytes 4 w.severity3 ++ leBytes 2 (orOnes 2 w.firstRing) ++ zeroBytes 10

def billetSecondHalf (k : Fin 4) (w : Working) : List Byte :=
  leBytes 4 w.published ++ leBytes 4 w.unpublished ++ leBytes 4 w.unlisted ++ leBytes 4 w.evidenceRequested ++
  leBytes 4 w.billetNumber.toNat ++ leBytes 1 k.val ++ zeroBytes 43

/-! ### The tile header (10.7, R163) -/

def tileHeader (x : Slot) (o : Outcome) : List Byte :=
  leBytes 1 o.code ++ leBytes 1 x.tile.val ++ leBytes 1 x.face.val ++ leBytes 1 x.cls.code ++ leBytes 1 x.severity ++
  leBytes 1 x.window.val ++ leBytes 1 x.readErrors ++ zeroBytes 1 ++ leBytes 8 x.firstTravel ++ leBytes 8 x.lastTravel ++
  leBytes 2 (if x.rowsReturned = 0 then 0xFFFF else x.oldestLine) ++ leBytes 2 x.rowsReturned ++ leBytes 2 x.rowBytes ++
  leBytes 2 x.firstCell ++ leBytes 2 x.lastCell ++ zeroBytes 30

/-! ### Status blocks (10.8) -/

/-- One byte of each counter: its low 8 bits (R186). -/
def lowBytes (l : List Nat) : List Byte := l.flatMap (leBytes 1)

/-- Two bytes of each counter: its low 16 bits (R186). -/
def lowWords (l : List Nat) : List Byte := l.flatMap (leBytes 2)

/-- The put index as published: behind the writes not yet answered (R138). -/
def Ring.publishedPut (r : Ring) : Nat := (r.put + Config.ringPlaces - r.writesPending) % Config.ringPlaces

/-- The number of held entries of the Hold Pool (R134). -/
def State.heldEntries (s : State) : Nat := ((List.finRange 4).map fun k => (s.billet k).holdList.length).sum

/-- The FREE tiles of the pool, tiles 0 to TileCount − 1 (R151). -/
def State.freeTiles (s : State) : Nat :=
  ((List.finRange 64).filter fun i => i.val < s.globals.tileCount && s.tile i == .free).length

/-- The READY tiles of the pool, bit i for tile i (R151, 10.8). -/
def State.readyTiles (s : State) : Nat :=
  ((List.finRange 64).map fun i => flagBit (i.val < s.globals.tileCount && s.tile i == .ready) i.val).sum

/-- The low 16 bits of a coordinate's difference are the whole pitch that set it (R186). -/
def Predictor.markStep (p : Predictor) : Nat := p.nextMark - p.lastMark

def slotByte (x : Slot) : List Byte :=
  leBytes 1 (x.state.code + (if x.state = .idle then 0 else x.tile.val * 4))

def block0 (s : State) : List Byte :=
  leBytes 1 s.part.code ++ leBytes 1 s.path.refusalReason.code ++ leBytes 2 s.causes.pending.toNat ++
  leBytes 2 s.causeMask.toNat ++ zeroBytes 6 ++ leBytes 5 s.path.refusalAddr.toNat ++ zeroBytes 43

def block1 (s : State) : List Byte :=
  let e := s.evidence
  leBytes 2 s.ring.publishedPut ++ leBytes 2 s.getIndex ++ leBytes 2 s.heldEntries ++ leBytes 1 s.freeTiles ++
  zeroBytes 1 ++ ((List.finRange 4).flatMap fun i => slotByte (s.slot i)) ++ leBytes 8 s.readyTiles ++
  lowBytes [s.ring.written, s.ring.full, s.ring.noHit] ++
  ((List.finRange 8).flatMap fun i => leBytes 1 (vget s.ring.hits i)) ++
  lowBytes [e.requests, e.evidenceOff, e.assigned, e.busy, e.noTile, e.preEmptions, e.complete, e.clipped, e.overrun,
    e.aborted, e.released, e.readErrors] ++
  zeroBytes 17

/-- The gap-list entries that are open (R64). -/
def openGaps (l : List GapEntry) : Nat := (l.filter fun g => g.upTo.isNone).length

/-- The first travel of a Hold List's front entry (R134). -/
def Billet.frontTravel (b : Billet) : Option Nat := b.holdList.head?.map fun e => e.finding.firstTravel

def strandBlockBytes (x : Strand) : List Byte :=
  let u := x.unit
  let p := x.predictor
  let b := x.billet
  leBytes 1 (u.state.code + stopCode u.stopMarker * 4 + flagBit u.boundarySeen 4 + flagBit u.pendingBoundary.isSome 5 +
    flagBit u.viewActive 6 + flagBit b.alert 7) ++
  leBytes 1 (u.viewFlag.code + u.lastReject.code * 4 + b.published.code * 32 + b.close.code * 64) ++
  leBytes 1 (u.watched.toNat + u.covered.toNat * 16) ++
  leBytes 1 (u.gaps.length + openGaps u.gaps * 16) ++
  leBytes 1 (p.state.code + flagBit p.candidate.isSome 2 + p.missCount * 8 +
    flagBit (b.holdList.length / 256 % 2 == 1) 7) ++
  leBytes 1 (b.tally.worst + flagBit b.frontTravel.isSome 2) ++
  leBytes 1 b.holdList.length ++ leBytes 1 b.tally.count ++ leBytes 4 u.travel ++ leBytes 2 u.billetNumber.toNat ++
  leBytes 1 (u.fraction / 256) ++ leBytes 3 p.pitch ++ leBytes 3 u.lastBoundary ++ leBytes 3 b.headBoundary ++
  leBytes 3 (b.frontTravel.getD 0) ++ leBytes 3 (p.candidate.getD 0) ++ leBytes 3 p.lastMark ++
  leBytes 2 p.markStep ++
  lowBytes [u.glitches, u.heldCount, u.acceptedCuts, u.rejectedCuts, u.viewBlocked, u.gapMerges] ++
  lowBytes [p.pulses, p.pitchUsed, p.pitchRejected, p.haltDiscards, p.observations, p.locks, p.hits, p.duplicates,
    p.strays, p.misses, p.lockLosses] ++
  lowBytes [b.findings, b.listed, b.unlisted, b.alerts, b.publishedCount, b.unpublishedCount, b.discardedHolds,
    b.billetsClosed]

/-- The last completed line that a face's block shows: that of the assembler feeding the face (R31). -/
def State.lastCompletedOf (s : State) (k : Fin 16) : Option Nat :=
  (s.feeding k).bind fun w => (s.assembler w).lastCompleted

def faceBlockBytes (x : Face) (lastCompleted : Option Nat) : List Byte :=
  let h := x.head
  let m := x.model
  let c := x.capture
  let n := x.counts
  let t := x.tracks
  leBytes 1 (h.state.code + flagBit h.warning 3 + m.state.code * 16 + flagBit m.forView 6 + flagBit m.forHead 7) ++
  leBytes 1 (t.openTracks + flagBit m.lastStamp.isNone 7) ++ leBytes 2 h.errors ++ leBytes 1 h.goodRun ++
  leBytes 1 m.warmUp ++ leBytes 2 (orOnes 2 lastCompleted) ++ leBytes 4 (m.lastStamp.getD 0) ++
  lowWords [c.completed, c.torn, c.sequenceGaps, c.memoryErrors, c.restarts] ++
  lowWords [n.admittedLines, n.skipped, n.late, n.noisy, n.queued, n.dropped] ++
  lowWords [t.opened, t.splits, t.findings, t.oscMarks, t.scales, t.evicted, t.droppedSegments, t.discardedResults,
    t.gapResults] ++
  zeroBytes 8

/-- The 64 bytes of a block with the sequence count given (R180, 10.8). -/
def statusBytes (s : State) (b : Fin 22) (sequence : BitVec 32) : List Byte :=
  leBytes 4 sequence.toNat ++
    (if b.val = 0 then block0 s
     else if b.val = 1 then block1 s
     else if h : b.val < 6 then strandBlockBytes (s.strand ⟨b.val - 2, by omega⟩)
     else
      let k : Fin 16 := ⟨b.val - 6, by omega⟩
      faceBlockBytes (s.face k) (s.lastCompletedOf k))

end Sys2Proof.Machine
end

