-- ==== Sys2Proof/Machine/OwnTraffic.lean ====
section
/-!
DEFINITION. The Own Traffic Queue (R16): joining it, waiting for a place, and the issue order of own responses.
-/
namespace Sys2Proof.Machine

/-- A place of the Own Traffic Queue that no waiting unit is owed (R16). A place freed by a grant is owed to a waiter until
OWN_QUEUE_PLACE_GIVEN gives it (log 10). -/
def State.placeFree (s : State) : Bool := s.own.queue.length + s.own.waiters.length < Config.ownPlaces

/-- A transaction joins the Own Traffic Queue at the tail; the queue never holds more than 8. -/
def State.pushOwn (s : State) (t : OwnTxn) : State :=
  if s.own.queue.length < Config.ownPlaces then { s with own := { s.own with queue := s.own.queue ++ [t] } } else s

/-- The unit waits for a place. -/
def State.waits (s : State) (w : Waiter) : Bool := s.own.waiters.any fun x => x.1 == w

/-- The unit begins to wait at this event, unless it waits already. -/
def State.beginWait (s : State) (w : Waiter) : State :=
  if s.waits w then s else { s with own := { s.own with waiters := s.own.waiters ++ [(w, s.eventNumber)] } }

/-- The unit's wait ends. -/
def State.endWait (s : State) (w : Waiter) : State :=
  { s with own := { s.own with waiters := s.own.waiters.filter fun x => x.1 != w } }

/-- A ring read that the Evidence Engine issues is its slot's read outstanding (R152). -/
def State.readIssued (s : State) : OwnTag → State
  | .ringRead i _ => s.setSlot i { s.slot i with readOutstanding := true }
  | .statusBlock _ | .zeroRecord | .ringRecord | .billetHalf _ | .tileRow | .tileHeader _ => s

/-- A transaction of the Evidence Engine joins the queue, and is then issued by its unit (R16, R161; log 41). -/
def State.engineIssue (s : State) (t : OwnTxn) : State := (s.readIssued t.tag).pushOwn t

/-- The Evidence Engine makes a transaction: it joins the queue, or waits behind the engine's others (R16, R161). -/
def State.engineMake (s : State) (t : OwnTxn) : State :=
  if s.own.engine.isEmpty && !s.waits .evidence && s.placeFree then s.engineIssue t
  else { s with own := { s.own with engine := s.own.engine ++ [t] } }.beginWait .evidence

/-- The engine's waiting transactions join the queue in its order while places remain; with some left it waits. -/
def State.engineFlush : Nat → State → State
  | 0, s => s
  | fuel + 1, s =>
    match s.own.engine with
    | [] => s
    | t :: rest =>
      if s.placeFree then State.engineFlush fuel ({ s with own := { s.own with engine := rest } }.engineIssue t)
      else s.beginWait .evidence

/-- A place is given to the Evidence Engine: its first waiting transaction joins, then others while places remain. -/
def State.engineGiven (s : State) : State :=
  match s.own.engine with
  | [] => s
  | t :: rest => State.engineFlush rest.length ({ s with own := { s.own with engine := rest } }.engineIssue t)

/-- A read of that slot's rows. -/
def OwnTag.readsFor (i : Fin 4) : OwnTag → Bool
  | .ringRead j _ => j == i
  | .statusBlock _ | .zeroRecord | .ringRecord | .billetHalf _ | .tileRow | .tileHeader _ => false

/-- A read of the slot that waits with the engine is withdrawn (R164). It was not outstanding (R152). -/
def State.withdrawReads (s : State) (i : Fin 4) : State :=
  { s with own := { s.own with engine := s.own.engine.filter fun t => !t.tag.readsFor i } }

/-- The oldest own write issued and unanswered, when its tag is of the kind asked for (R16: own responses come in issue
order within each kind), and the state without it. -/
def State.answerWrite (s : State) (kind : OwnTag → Bool) : Option (OwnTxn × State) :=
  match s.own.writes with
  | [] => none
  | t :: rest => if kind t.tag then some (t, { s with own := { s.own with writes := rest } }) else none

/-- The oldest own read issued and unanswered, and the state without it. -/
def State.answerRead (s : State) : Option (OwnTxn × State) :=
  match s.own.reads with
  | [] => none
  | t :: rest => some (t, { s with own := { s.own with reads := rest } })

/-- An own transaction is a read exactly when it reads ring rows (R16). -/
def OwnTag.isRead : OwnTag → Bool
  | .ringRead _ _ => true
  | .statusBlock _ | .zeroRecord | .ringRecord | .billetHalf _ | .tileRow | .tileHeader _ => false

/-- The waiter that a freed place goes to (R16): of those that have waited longest, one in either order. -/
def State.longestWaiter (s : State) : Option (Waiter × State) :=
  match s.own.waiters with
  | [] => none
  | x :: _ =>
    let first := (s.own.waiters.map (·.2)).foldl min x.2
    let oldest := s.own.waiters.filter fun y => y.2 == first
    let (i, s1) := s.choose oldest.length
    some ((oldest.getD i x).1, s1)

end Sys2Proof.Machine
end

