-- ==== Sys2Proof/Machine/Held.lean ====
section
/-!
DEFINITION. Protected lines, held writes and the release step (R12, R13, R14, R158).
-/
namespace Sys2Proof.Machine

/-- A slot that is QUEUED or COPYING and not finishing (R152, R158). -/
def Slot.live (x : Slot) : Bool := x.state != .idle && x.outcome.isNone

/-- The place of a ring line among the slot's rows, counted from the oldest row as row 0 (R156). -/
def Slot.rowOf (x : Slot) (ringLines line : Nat) : Nat := (line + ringLines - x.oldestLine) % ringLines

/-- A slot protects a line of its window: it is live and the line's row has not yet all been returned (R158). -/
def State.slotProtects (s : State) (i : Fin 4) (w : Fin 16) (line : Nat) : Bool :=
  let x := s.slot i
  let lines := (s.window w).ringLines
  x.live && x.window == w && line < lines && x.rowOf lines line < x.rowCount && x.rowsReturned ≤ x.rowOf lines line

/-- The lines whose stride a range of window offsets touches, padding included (R12). -/
def linesTouched (stride offset count : Nat) : List Nat :=
  if count = 0 || stride = 0 then []
  else (List.range ((offset + count - 1) / stride - offset / stride + 1)).map fun i => offset / stride + i

/-- A slot protects some line that a write to a window touches. -/
def State.slotMet (s : State) (i : Fin 4) (w : Fin 16) (offset count : Nat) : Bool :=
  (linesTouched (s.window w).stride offset count).any fun l => s.slotProtects i w l

/-- Some line that a write to a window touches is protected (R158). -/
def State.protectedRange (s : State) (w : Fin 16) (offset count : Nat) : Bool :=
  (List.finRange 4).any fun i => s.slotMet i w offset count

/-- A held write touches a protected line. -/
def State.heldMeets (s : State) (h : HeldWrite) : Bool :=
  match h.window with
  | none => false
  | some w => s.protectedRange w h.offset h.count

/-- The front writes of a queue: of each ID the oldest (R12). -/
def frontsFrom (seen : List Id) : List HeldWrite → List HeldWrite
  | [] => []
  | h :: rest => if seen.contains h.id then frontsFrom seen rest else h :: frontsFrom (h.id :: seen) rest

def State.fronts (s : State) : List HeldWrite := frontsFrom [] s.path.held

/-- The Outstanding Table with one record changed. -/
def State.modRec (s : State) (seq : Nat) (f : Rec → Rec) : State :=
  { s with path := { s.path with table := s.path.table.map fun r => if r.seq = seq then f r else r } }

/-- A held write moves to the forwarding queue as WAITING (R13, R15); its address is the one its arrival gave it. -/
def State.releaseWrite (s : State) (h : HeldWrite) : State :=
  let s1 := { s with path := { s.path with
    held := s.path.held.filter fun x => x.seq != h.seq
    forwarding := s.path.forwarding ++ [(h.seq, 0)] } }
  s1.modRec h.seq fun r => { r with disposition := .waiting }

/-- Front writes that touch no protected line are released one after another, those of different IDs in either order,
until every front write left touches one (R13). -/
def State.releaseFronts : Nat → State → State
  | 0, s => s
  | fuel + 1, s =>
    match s.fronts.filter fun h => !s.heldMeets h with
    | [] => s
    | h :: rest =>
      let (i, s1) := s.choose (rest.length + 1)
      State.releaseFronts fuel (s1.releaseWrite ((h :: rest).getD i h))

/-- A write that has become the front of its ID's list has its hold timer started (R14). -/
def State.startTimers (s : State) : State :=
  let fronts := s.fronts.map (·.seq)
  let due := s.timeBase + s.globals.holdLimit
  { s with path := { s.path with
    held := s.path.held.map fun h =>
      if h.expiry.isNone && fronts.contains h.seq then { h with expiry := some due } else h } }

/-- A release step (R13), made at every event at which the protection of a line ends. -/
def State.releaseStep (s : State) : State := (State.releaseFronts s.path.held.length s).startTimers

end Sys2Proof.Machine
end

