-- ==== Sys2Proof/Machine/Evidence.lean ====
section
/-!
DEFINITION. The Evidence Engine (08_evidence_capture.md): copy slots, tiles, the copy range, reads, headers and aborts.
-/
namespace Sys2Proof.Machine

/-- What a copy request carries (R133, R153). -/
structure CopyRequest where
  severity : Nat
  cls : FindingClass
  face : Fin 16
  minCell : Nat
  maxCell : Nat
  firstTravel : Nat
  lastTravel : Nat
  window : Fin 16
  firstRing : Nat
  lastRing : Nat
  poolEntry : Option Nat
  deriving DecidableEq, Repr

/-- The rows and columns of a copy (R156, R157). -/
structure CopyRange where
  oldestLine : Nat
  rowCount : Nat
  firstCell : Nat
  lastCell : Nat
  byteOffset : Nat
  rowBytes : Nat
  clipped : Bool
  deriving DecidableEq, Repr

/-! ### The copy range -/

/-- The age of a ring line: n − x modulo RL, a difference of 0 being age RL (R156). -/
def ageOf (n ringLines x : Nat) : Nat :=
  let d := (n + ringLines - x % ringLines) % ringLines
  if d = 0 then ringLines else d

/-- The rows and columns of a copy, from the Global Settings, the source window, the window's last completed line and the
track's lines and cells (R156, R157). -/
def copyRange (g : Globals) (x : Window) (lastCompleted : Option Nat) (q : CopyRequest) : CopyRange :=
  let rl := x.ringLines
  let valid := rl - g.guardLines
  let n := match lastCompleted with
    | some l => (l + 1) % rl
    | none => q.lastRing + 1
  let endAge := ageOf n rl q.lastRing
  let span := (q.lastRing + rl - q.firstRing % rl) % rl + 1
  let startAge := endAge + span - 1
  let newest := max (endAge - g.marginLines) 1
  let oldest := min (startAge + g.marginLines) valid
  let first := max (q.minCell - g.marginCells) x.firstCell
  let last := min (q.maxCell + g.marginCells) x.lastCell
  let bytes := (last + 1 - first) * x.cellBytes
  let rows := oldest + 1 - newest
  let capacity := (g.tileBytes - 64) / bytes
  let cut := rows > capacity
  let rows1 := if cut then capacity else rows
  let oldest1 := if cut then newest + capacity - 1 else oldest
  { oldestLine := (n + rl - oldest1 % rl) % rl
    rowCount := rows1
    firstCell := first
    lastCell := last
    byteOffset := if x.mirror = 1 then x.lineBytes - (last + 1) * x.cellBytes else first * x.cellBytes
    rowBytes := bytes
    clipped := startAge > oldest1 || cut }

/-! ### Addresses of a copy -/

/-- The first address of a tile (R151). -/
def State.tileBase (s : State) (t : Fin 64) : Nat := s.globals.evidenceBase + t.val * s.globals.tileBytes

/-- The source address of the byte of a slot's rows that is to be read next (R161). -/
def State.readAddress (s : State) (x : Slot) : Nat :=
  let w := s.window x.window
  w.landing + (x.oldestLine + x.rowsReturned) % w.ringLines * w.stride + x.byteOffset + x.rowPos

/-- The size of a slot's next read: up to 256 bytes, ending at the row's end or at a 4 KiB boundary (R161). -/
def State.readSize (s : State) (x : Slot) : Nat :=
  min (min 256 (x.rowBytes - x.rowPos)) (4096 - s.readAddress x % 4096)

/-- Where the data of a slot's read goes in its tile (R161). -/
def State.rowPlace (s : State) (x : Slot) : Nat :=
  s.tileBase x.tile + 64 + x.rowsReturned * x.rowBytes + x.rowPos

/-! ### Making transactions -/

/-- The slot's next read is made (R161). It is outstanding once it joins the Own Traffic Queue, not while it waits for a place
(R152, State.engineIssue). -/
def State.makeRead (s : State) (i : Fin 4) : State :=
  let x := s.slot i
  s.engineMake
    { tag := .ringRead i x.order, addr := BitVec.ofNat 40 (s.readAddress x), count := s.readSize x, data := [] }

/-- The slot's outcome is fixed and its header made (R163). -/
def State.makeHeader (s : State) (i : Fin 4) (o : Outcome) : State :=
  let x := s.slot i
  (s.setSlot i { x with outcome := some o }).engineMake
    { tag := .tileHeader i, addr := BitVec.ofNat 40 (s.tileBase x.tile), count := 64, data := tileHeader x o }

/-- The data of a read is written into the tile with one write, or two when its place crosses a 4 KiB boundary (R161). That of two
the one at the lower address joins the engine's order first is the model's choice (log 42). -/
def State.makeRowWrites (s : State) (place : Nat) (data : List Byte) : State :=
  let room := 4096 - place % 4096
  if data.length ≤ room then
    s.engineMake { tag := .tileRow, addr := BitVec.ofNat 40 place, count := data.length, data := data }
  else
    (s.engineMake { tag := .tileRow, addr := BitVec.ofNat 40 place, count := room, data := data.take room }).engineMake
      { tag := .tileRow, addr := BitVec.ofNat 40 (place + room), count := data.length - room, data := data.drop room }

/-! ### Aborts -/

/-- The count of an outcome one higher (R163, R168). -/
def Evidence.countOutcome (e : Evidence) : Option Outcome → Evidence
  | none => e
  | some .complete => { e with complete := bump e.complete }
  | some .clipped => { e with clipped := bump e.clipped }
  | some .overrun => { e with overrun := bump e.overrun }
  | some .aborted => { e with aborted := bump e.aborted }

/-- The count at an abort (R159, R165), where the counts of aborts rise at the abort (log 14). -/
def Evidence.countAbort (e : Evidence) (o : Outcome) : Evidence :=
  if Config.countsAtAbort then e.countOutcome (some o) else e

/-- The count at the answer of a header (R163, R168): of an abort only where it was not counted at the abort (log 14). -/
def Evidence.countHeader (e : Evidence) : Option Outcome → Evidence
  | none => e
  | some .complete => e.countOutcome (some .complete)
  | some .clipped => e.countOutcome (some .clipped)
  | some .overrun => if Config.countsAtAbort then e else e.countOutcome (some .overrun)
  | some .aborted => if Config.countsAtAbort then e else e.countOutcome (some .aborted)

/-- An abort of a live slot (R164): its outcome is fixed, its waiting read withdrawn, its header made behind the engine's
writes, and the abort counted (R159, R165). A slot whose outcome is present takes none. -/
def State.abortSlot (s : State) (i : Fin 4) (o : Outcome) : State :=
  if (s.slot i).live then
    let s1 := (s.withdrawReads i).makeHeader i o
    { s1 with evidence := s1.evidence.countAbort o }
  else s

/-- Every slot of a list that the test names is aborted, each whole before the next: of several aborted at one event the
lowest-numbered makes its header first (log 38). -/
def State.abortWhere (s : State) (o : Outcome) (test : State → Fin 4 → Bool) : List (Fin 4) → State
  | [] => s
  | i :: rest => State.abortWhere (if test s i then s.abortSlot i o else s) o test rest

/-- Every slot protecting a line that an expired write touches is aborted with OVERRUN (R159). -/
def State.abortOverrun (s : State) (w : Fin 16) (offset count : Nat) : State :=
  s.abortWhere .overrun (fun t i => t.slotMet i w offset count) (List.finRange 4)

/-- Every live slot of a window that is disabled is aborted with ABORTED (R165); a release step follows, since protection
ends (R13). -/
def State.abortWindow (s : State) (w : Fin 16) : State :=
  (s.abortWhere .aborted (fun t i => (t.slot i).live && (t.slot i).window == w) (List.finRange 4)).releaseStep

/-! ### The copy engine -/

/-- A slot that the copy engine may choose (R160). -/
def Slot.choosable (x : Slot) : Bool := x.state == .queued && x.outcome.isNone

/-- Of two slots the one the copy engine prefers: higher severity, then lower queue order (R160). -/
def State.preferred (s : State) (best : Option (Fin 4)) (i : Fin 4) : Option (Fin 4) :=
  if (s.slot i).choosable then
    match best with
    | none => some i
    | some j =>
      if (s.slot j).severity < (s.slot i).severity ||
          ((s.slot j).severity == (s.slot i).severity && (s.slot i).order < (s.slot j).order)
      then some i else best
  else best

/-- With no slot COPYING, the copy engine chooses one, which starts reading, or makes its header at once when its range
has no rows (R160). -/
def State.chooseCopy (s : State) : State :=
  if (List.finRange 4).any fun i => (s.slot i).state == .copying then s
  else
    match (List.finRange 4).foldl s.preferred none with
    | none => s
    | some i =>
      let s1 := s.setSlot i { s.slot i with state := .copying }
      if (s.slot i).rowCount = 0 then s1.makeHeader i .clipped else s1.makeRead i

/-! ### The request at a finding's close -/

/-- A slot that a request of the severity given may pre-empt (R153). -/
def Slot.preEmptable (x : Slot) (severity : Nat) : Bool :=
  x.choosable && x.poolEntry.isSome && x.severity < severity

/-- Of two such slots the victim: lower severity, then the one that became QUEUED last (R153). -/
def State.worseVictim (s : State) (severity : Nat) (best : Option (Fin 4)) (i : Fin 4) : Option (Fin 4) :=
  if (s.slot i).preEmptable severity then
    match best with
    | none => some i
    | some j =>
      if (s.slot i).severity < (s.slot j).severity ||
          ((s.slot i).severity == (s.slot j).severity && (s.slot j).order < (s.slot i).order)
      then some i else best
  else best

def State.victim (s : State) (severity : Nat) : Option (Fin 4) :=
  (List.finRange 4).foldl (s.worseVictim severity) none

def State.idleSlot (s : State) : Option (Fin 4) := (List.finRange 4).find? fun i => (s.slot i).state == .idle

/-- The lowest-numbered FREE tile of the pool (R155). -/
def State.freeTile (s : State) : Option (Fin 64) :=
  (List.finRange 64).find? fun t => t.val < s.globals.tileCount && s.tile t == .free

/-- A pool entry's finding marked PRE-EMPTED with tile none (R133, R137). -/
def PoolEntry.preEmpt (number : Nat) (e : PoolEntry) : PoolEntry :=
  if e.number = number then { e with finding := { e.finding with evidence := .preEmpted, tile := none } } else e

def Strand.preEmpt (number : Nat) (x : Strand) : Strand :=
  { x with billet := { x.billet with holdList := x.billet.holdList.map (PoolEntry.preEmpt number) } }

def State.markPreEmpted (s : State) (number : Option Nat) : State :=
  match number with
  | none => s
  | some n => { s with strands := vtab fun k => (s.strand k).preEmpt n }

/-- The slot takes the request, with its tile: the range and the protection are fixed, and it becomes QUEUED (R155, R156,
R158). The copy engine then applies R160. -/
def State.assignSlot (s : State) (i : Fin 4) (t : Fin 64) (q : CopyRequest) : State :=
  let r := copyRange s.globals (s.window q.window) (s.assembler q.window).lastCompleted q
  let x : Slot :=
    { Slot.cleared with
      state := .queued, severity := q.severity, cls := q.cls, face := q.face, firstTravel := q.firstTravel,
      lastTravel := q.lastTravel, window := q.window, tile := t, poolEntry := q.poolEntry, order := s.evidence.nextOrder,
      oldestLine := r.oldestLine, rowCount := r.rowCount, firstCell := r.firstCell, lastCell := r.lastCell,
      byteOffset := r.byteOffset, rowBytes := r.rowBytes, clipped := r.clipped }
  let s1 := s.setSlot i x
  { s1 with evidence :=
    { s1.evidence with nextOrder := s1.evidence.nextOrder + 1, assigned := bump s1.evidence.assigned } }.chooseCopy

/-- A pre-emption (R154): the victim's finding is told, its protection ends with a release step, and the slot passes with
its tile to the new request. -/
def State.preEmptSlot (s : State) (i : Fin 4) (q : CopyRequest) : State :=
  let x := s.slot i
  let s1 := ((s.markPreEmpted x.poolEntry).setSlot i Slot.cleared).releaseStep
  { s1 with evidence := { s1.evidence with preEmptions := bump s1.evidence.preEmptions } }.assignSlot i x.tile q

/-- A copy request, answered at once (R150, R153, R155). A tile taken marks block 1 (R168). -/
def State.requestCopy (s : State) (q : CopyRequest) : (EvidenceState × Option (Fin 64)) × State :=
  if s.globals.evidenceEnable ≠ 1 then
    ((.noTile, none), { s with evidence := { s.evidence with evidenceOff := bump s.evidence.evidenceOff } })
  else
    let s0 := { s with evidence := { s.evidence with requests := bump s.evidence.requests } }
    match s0.idleSlot with
    | some i =>
      match s0.freeTile with
      | some t => ((.assigned, some t), ((s0.setTile t .filling).markDirty 1).assignSlot i t q)
      | none =>
        ((.noTile, none), { s0 with evidence := { s0.evidence with noTile := bump s0.evidence.noTile } }.raise .tilesOut)
    | none =>
      match s0.victim q.severity with
      | some i => ((.assigned, some (s0.slot i).tile), s0.preEmptSlot i q)
      | none => ((.busy, none), { s0 with evidence := { s0.evidence with busy := bump s0.evidence.busy } })

/-- The Billet Unit reports that a pool entry is free: no slot refers to it any more (R137, R152). -/
def State.forgetEntry (s : State) (number : Nat) : State :=
  { s with evidence := { s.evidence with
      slots := vtab fun i =>
        let x := s.slot i
        if x.poolEntry = some number then { x with poolEntry := none } else x } }

/-! ### Responses -/

/-- One more ERROR response to a ring read (R162). -/
def State.countReadError (s : State) (i : Fin 4) (mine : Bool) : State :=
  let s1 := { s with evidence := { s.evidence with readErrors := bump s.evidence.readErrors } }.raise .memErr
  if mine then s1.setSlot i { s1.slot i with readErrors := min 255 ((s1.slot i).readErrors + 1) } else s1

/-- The read answered ended its row: one row more is returned, the line's protection ends, and the next row or the header
follows (R161). -/
def State.rowEnded (s : State) (i : Fin 4) : State :=
  let x := s.slot i
  let s1 := (s.setSlot i { x with rowsReturned := x.rowsReturned + 1, rowPos := 0 }).releaseStep
  if x.rowsReturned + 1 < x.rowCount then s1.makeRead i
  else s1.makeHeader i (if x.clipped then .clipped else .complete)

/-- The data of a live slot's read (R161). -/
def State.readReturned (s : State) (i : Fin 4) (data : List Byte) : State :=
  let x := s.slot i
  let s1 := s.makeRowWrites (s.rowPlace x) data
  if x.rowPos + data.length < x.rowBytes then
    (s1.setSlot i { s1.slot i with rowPos := x.rowPos + data.length }).makeRead i
  else s1.rowEnded i

/-- The response of a ring read (R161, R162, R164): a read of a slot that was since aborted, or given to another finding,
has its data discarded. -/
def State.ringReadAnswered (s : State) (i : Fin 4) (order : Nat) (resp : Resp) (data : List Byte) : State :=
  let x := s.slot i
  let mine := x.state != .idle && x.order == order && x.readOutstanding
  let s1 := if mine then s.setSlot i { x with readOutstanding := false } else s
  let s2 := if resp = .error then s1.countReadError i mine else s1
  if mine && x.outcome.isNone then s2.readReturned i data else s2

/-- The response to a tile header, OKAY or ERROR (R163): the tile becomes READY, the slot IDLE, EVIDENCE is raised, the
outcome counted, block 1 marked; when the slot was COPYING the copy engine chooses again. -/
def State.headerAnswered (s : State) (i : Fin 4) : State :=
  let x := s.slot i
  let s1 := (s.setTile x.tile .ready).setSlot i Slot.cleared
  let s2 := ({ s1 with evidence := s1.evidence.countHeader x.outcome }.raise .evidence).markDirty 1
  if x.state = .copying then s2.chooseCopy else s2

/-- RELEASE TILES (R167): each READY tile of the pool that the mask names becomes FREE. -/
def State.releaseTiles (s : State) (mask : BitVec 64) : State :=
  let freed : Fin 64 → Bool := fun t => t.val < s.globals.tileCount && mask.getLsbD t.val && s.tile t == .ready
  let n := ((List.finRange 64).filter freed).length
  { s with evidence :=
    { s.evidence with
      tiles := vtab fun t => if freed t then .free else s.tile t
      released := bumpBy n s.evidence.released } }

end Sys2Proof.Machine
end

