-- ==== Sys2Proof/Machine/Predictor.lean ====
section
/-!
DEFINITION. The Mark Predictor (06_oscillation_mark_predictor.md): pulses and the pitch, observations, stamps and misses,
and the mark-window test. Every operation is a function of the predictor's own record.
-/
namespace Sys2Proof.Machine

/-- The pitch rounded to whole tu, a half rounded up (R113). -/
def Predictor.wholePitch (p : Predictor) : Nat := (p.pitch + 128) / 256

/-- Two coordinates lie within a tolerance, above or below (R106, R119, R120, R123). -/
def within (tolerance a b : Nat) : Bool := a ≤ b + tolerance && b ≤ a + tolerance

/-- The predictor at STRAND START (R115). -/
def Predictor.start (nominal : Nat) (p : Predictor) : Predictor :=
  { Predictor.reset with
    state := .seeking, pitch := nominal * 256, pulseTravel := p.pulseTravel, pulseFraction := p.pulseFraction }

/-- The end of the final billet close (R115). -/
def Predictor.finish (p : Predictor) : Predictor := { p with state := .off, candidate := none }

/-- The strand has entered HELD (R118). -/
def Predictor.halt (p : Predictor) : Predictor := { p with haltMark := true }

/-- The measurement of a pulse: the travel since the last pulse recorded, in units of 1/256 tu with the fraction taken
toward zero (R117). -/
def Predictor.measure (p : Predictor) (travel fraction : Nat) : Nat :=
  (travel * 65536 + fraction - (p.pulseTravel * 65536 + p.pulseFraction)) / 256

/-- What the measurement of a pulse in CASTING does to the pitch and the counts (R117). -/
def Predictor.takeMeasure (pitchMin pitchMax m : Nat) (p : Predictor) : Predictor :=
  if !p.pulseValid then p
  else if p.haltMark then { p with haltDiscards := bump p.haltDiscards }
  else if pitchMin * 256 ≤ m && m ≤ pitchMax * 256 then
    { p with pitch := (3 * p.pitch + m) / 4, pitchUsed := bump p.pitchUsed }
  else { p with pitchRejected := bump p.pitchRejected }

/-- The travel at a pulse is recorded (R116). -/
def Predictor.record (travel fraction : Nat) (halted : Bool) (p : Predictor) : Predictor :=
  { p with pulseTravel := travel, pulseFraction := fraction, pulseValid := true, haltMark := halted }

/-- An oscillation pulse (R116), by the predictor's and the strand's state. -/
def Predictor.pulse (x : StrandSettings) (strand : StrandState) (travel fraction : Nat) (p : Predictor) : Predictor :=
  if p.state = .off then p
  else
    match strand with
    | .stopping => p
    | .casting =>
      (({ p with pulses := bump p.pulses }).takeMeasure x.pitchMin x.pitchMax (p.measure travel fraction)).record
        travel fraction false
    | .held => ({ p with pulses := bump p.pulses }).record travel fraction true
    | .idle => p

/-- An observation reaching a SEEKING predictor (R119). -/
def Predictor.observeSeeking (tolerance c : Nat) (p : Predictor) : Predictor :=
  let p1 := { p with observations := bump p.observations }
  match p.candidate with
  | none => { p1 with candidate := some c }
  | some d =>
    if within tolerance c (d + p.wholePitch) then
      { p1 with
        state := .locked, lastMark := c, nextMark := c + p.wholePitch, missCount := 0, candidate := none,
        locks := bump p.locks }
    else { p1 with candidate := some c }

/-- An observation reaching a LOCKED or COASTING predictor (R120): duplicate, hit or stray. -/
def Predictor.observeHolding (tolerance c : Nat) (p : Predictor) : Predictor :=
  let p1 := { p with observations := bump p.observations }
  if within tolerance c p.lastMark then { p1 with duplicates := bump p.duplicates }
  else if within tolerance c p.nextMark then
    { p1 with
      state := .locked, lastMark := c, nextMark := c + p.wholePitch, missCount := 0, hits := bump p.hits }
  else { p1 with strays := bump p.strays }

/-- An observation with coordinate c (R119, R120); an OFF predictor ignores it (R115). -/
def Predictor.observe (tolerance c : Nat) (p : Predictor) : Predictor :=
  match p.state with
  | .off => p
  | .seeking => p.observeSeeking tolerance c
  | .locked | .coasting => p.observeHolding tolerance c

/-- One miss (R121, R122). -/
def Predictor.miss (missLimit : Nat) (p : Predictor) : Predictor :=
  let p1 := { p with
    lastMark := p.nextMark, nextMark := p.nextMark + p.wholePitch, missCount := p.missCount + 1,
    misses := bump p.misses, state := .coasting }
  if missLimit ≤ p.missCount + 1 then
    { p1 with state := .seeking, candidate := none, lockLosses := bump p.lockLosses }
  else p1

/-- The predictor holds a rhythm. -/
def Predictor.holding (p : Predictor) : Bool := p.state == .locked || p.state == .coasting

/-- The misses that one stamp makes (R121); the fuel is MissLimit, the most it can make. -/
def Predictor.expire (x : StrandSettings) (t : Nat) : Nat → Predictor → Predictor
  | 0, p => p
  | fuel + 1, p =>
    if p.holding && p.nextMark + x.tolerance + x.gap < t then Predictor.expire x t fuel (p.miss x.missLimit) else p

/-- A stamp handed over by the Track Table (R92, R121). -/
def Predictor.stamp (x : StrandSettings) (t : Nat) (p : Predictor) : Predictor := p.expire x t x.missLimit

/-- The mark-window test of a coordinate (R106, R123). -/
def Predictor.inWindow (tolerance c : Nat) (p : Predictor) : Bool :=
  p.holding && (within tolerance c p.lastMark || within tolerance c p.nextMark)

/-- The published fields of a predictor that are not travel-like: the pitch, and what its block does not show, are blanked
(R113, R125). -/
def Predictor.published (p : Predictor) : Predictor :=
  { p with pitch := 0, pulseTravel := 0, pulseFraction := 0, pulseValid := false, haltMark := false }

/-- A predictor's record becomes what is given: block 2 + k is marked at each change of its published fields (R113, R125). -/
def State.changePredictor (s : State) (k : Fin 4) (p : Predictor) : State :=
  if p.published = (s.predictor k).published then s.setPredictor k p else (s.setPredictor k p).markStrand k

/-- A stamp handed to the strand's predictor; a loss of lock raises MARK-LOST and marks the strand's block (R122). -/
def State.stampPredictor (s : State) (k : Fin 4) (t : Nat) : State :=
  let p := s.predictor k
  let q := p.stamp (s.settings k) t
  let s1 := s.changePredictor k q
  if p.holding && q.state == .seeking then (s1.raise .markLost).markStrand k else s1

end Sys2Proof.Machine
end

