-- ==== Sys2Proof/Machine/Coverage.lean ====
section
/-!
DEFINITION. Coverage notices and the gap list of a strand (R63, R64, R65, R144).
-/
namespace Sys2Proof.Machine

/-- The mask of one face of a strand. -/
def faceMask (f : Fin 4) : BitVec 4 := BitVec.ofNat 4 (2 ^ f.val)

/-- The strand is CASTING or HELD. -/
def StrandUnit.moving (u : StrandUnit) : Bool := u.state == .casting || u.state == .held

/-- A face lies in an open entry (R64). -/
def inOpenGap (f : Fin 4) (l : List GapEntry) : Bool := l.any fun g => g.upTo.isNone && g.mask.getLsbD f.val

/-- The last entry of a list joined by a face and open again (R64, cases 1 and 3). -/
def joinLast (f : Fin 4) : List GapEntry → List GapEntry
  | [] => []
  | [g] => [{ g with mask := g.mask ||| faceMask f, upTo := none }]
  | g :: h :: rest => g :: joinLast f (h :: rest)

/-- A face that has become uncovered at travel t is placed in the list (R64); the second part tells a merge into a full
list. -/
def openGap (f : Fin 4) (t : Nat) (l : List GapEntry) : List GapEntry × Bool :=
  if l.getLast?.any fun g => g.start == t then (joinLast f l, false)
  else if l.length < Config.gapPlaces then (l ++ [{ mask := faceMask f, start := t, upTo := none }], false)
  else (joinLast f l, true)

/-- The open entries whose faces are all covered close at travel t (R64). -/
def closeGaps (covered : BitVec 4) (t : Nat) (l : List GapEntry) : List GapEntry :=
  l.map fun g => if g.upTo.isNone && g.mask &&& ~~~covered == 0 then { g with upTo := some t } else g

/-- Every open entry closes at the final boundary (R49). -/
def closeAllGaps (t : Nat) (l : List GapEntry) : List GapEntry :=
  l.map fun g => if g.upTo.isNone then { g with upTo := some t } else g

/-- A notice that a face is not covered (R63). -/
def StrandUnit.uncover (f : Fin 4) (u : StrandUnit) : StrandUnit :=
  let u1 := { u with covered := u.covered &&& ~~~faceMask f }
  if !u.moving then u1
  else
    let u2 := { u1 with watched := u1.watched ||| faceMask f }
    if inOpenGap f u2.gaps then u2
    else
      let r := openGap f u2.travel u2.gaps
      { u2 with gaps := r.1, gapMerges := if r.2 then bump u2.gapMerges else u2.gapMerges }

/-- A notice that a face is covered (R63). -/
def StrandUnit.cover (f : Fin 4) (u : StrandUnit) : StrandUnit :=
  let u1 := { u with covered := u.covered ||| faceMask f }
  if u.moving then { u1 with gaps := closeGaps u1.covered u1.travel u1.gaps } else u1

/-- A Strand Travel Unit's published fields changed: block 2 + k is marked where a change is made (R45, R64). -/
def State.changeUnit (s : State) (k : Fin 4) (u : StrandUnit) : State :=
  if u = s.unit k then s.setUnit k u else (s.setUnit k u).markStrand k

/-- The Strand Travel Unit of a face's strand is told that the face is not covered. -/
def State.uncoverFace (s : State) (k : Fin 16) : State :=
  s.changeUnit (strandOf k) ((s.unit (strandOf k)).uncover (faceIn k))

/-- The Strand Travel Unit of a face's strand is told that the face is covered. -/
def State.coverFace (s : State) (k : Fin 16) : State :=
  s.changeUnit (strandOf k) ((s.unit (strandOf k)).cover (faceIn k))

/-- An entry overlaps the billet from head to tail (R144). -/
def GapEntry.overlapsBillet (head tail : Nat) (g : GapEntry) : Bool :=
  g.start < tail && (match g.upTo with
    | none => true
    | some e => head ≤ e)

/-- The faces that some overlapping entry names (R144). -/
def lostFaces (head tail : Nat) (l : List GapEntry) : BitVec 4 :=
  l.foldl (fun m g => if g.overlapsBillet head tail then m ||| g.mask else m) 0

/-- The entries that stay after a billet close: the open ones, and those reaching the tail or beyond (R65). -/
def keptGaps (tail : Nat) (l : List GapEntry) : List GapEntry :=
  l.filter fun g => match g.upTo with
    | none => true
    | some e => tail ≤ e

end Sys2Proof.Machine
end

