-- ==== Sys2Proof/Machine/Billet.lean ====
section
/-!
DEFINITION. Findings, the Finding Filter, alert lines, the Hold Pool, the Findings Ring and billet closes
(07_findings_hold_lists_and_billet_records.md), and the zero records of STARTING (R140).
-/
namespace Sys2Proof.Machine

/-! ### Counting by class -/

/-- n more of one class. -/
def ClassCounts.add (n : Nat) (c : FindingClass) (x : ClassCounts) : ClassCounts :=
  match c with
  | .corner => { x with corner := x.corner + n }
  | .longitudinal => { x with longitudinal := x.longitudinal + n }
  | .transverse => { x with transverse := x.transverse + n }
  | .markRoot => { x with markRoot := x.markRoot + n }

/-- Class counts held at 65535 (R136). -/
def ClassCounts.capped (x : ClassCounts) : ClassCounts :=
  { corner := min x.corner 65535, longitudinal := min x.longitudinal 65535, transverse := min x.transverse 65535,
    markRoot := min x.markRoot 65535 }

/-- Two sets of class counts together (R143). -/
def ClassCounts.plus (x y : ClassCounts) : ClassCounts :=
  { corner := x.corner + y.corner, longitudinal := x.longitudinal + y.longitudinal,
    transverse := x.transverse + y.transverse, markRoot := x.markRoot + y.markRoot }

/-- A finding added to the overflow tally (R136). -/
def Tally.addFinding (c : FindingClass) (severity : Nat) (t : Tally) : Tally :=
  { count := min (t.count + 1) 65535, classes := (t.classes.add 1 c).capped, worst := max t.worst severity }

/-! ### Handling a finding (R126) -/

/-- A filter entry hits a key (R129). -/
def FilterEntry.hitsKey (x : FilterEntry) (key : BitVec 16) : Bool := (key ^^^ x.code) &&& x.mask == 0

/-- The lowest-numbered enabled entry that hits (R129). -/
def State.filterHit (s : State) (key : BitVec 16) : Option (Fin 8) :=
  (List.finRange 8).find? fun i => filterEnabled s.shadow i && (s.filter i).hitsKey key

/-- Step 1: the filter chooses the action and the hit (R129). -/
def State.filterFinding (s : State) (f : Finding) : Finding × State :=
  match s.filterHit f.key with
  | some i =>
    ({ f with filterHit := some i, action := actionOfCode (s.filter i).action },
      { s with ring := { s.ring with hits := vset s.ring.hits i (bump (vget s.ring.hits i)) } })
  | none => ({ f with filterHit := none, action := .count }, { s with ring := { s.ring with noHit := bump s.ring.noHit } })

/-- The finding qualifies for the alert (R131). -/
def qualifies (alertSeverity severity : Nat) : Bool := 1 ≤ alertSeverity && alertSeverity ≤ 3 && alertSeverity ≤ severity

/-- Step 2: the alert test (R131); a qualifying finding marks the strand's block. -/
def State.alertFinding (s : State) (f : Finding) : State :=
  let x := s.settings f.strand
  let b := s.billet f.strand
  if qualifies x.alertSeverity f.severity then
    ((s.setBillet f.strand
      { b with alert := true, alertTimer := some (s.timeBase + milliseconds x.alertTime), alerts := bump b.alerts }).raise
      .finding).markStrand f.strand
  else s

/-- The numbers of the Hold Pool's entries on a strand's list (R134). -/
def Billet.numbers (b : Billet) : List Nat := b.holdList.map (·.number)

/-- The numbers of the held entries of the pool (R134). -/
def State.poolNumbers (s : State) : List Nat := (List.finRange 4).flatMap fun k => (s.billet k).numbers

/-- The free pool entry with the lowest number (R134). -/
def State.freeEntry (s : State) : Option Nat :=
  (List.range Config.poolPlaces).find? fun n => !s.poolNumbers.contains n

/-- What the Track Table hands over with a finding for the evidence request (R110). -/
structure Source where
  window : Fin 16
  firstRing : Nat
  lastRing : Nat
  lastTravel : Nat
  deriving DecidableEq, Repr

/-- Step 3: the copy request of a finding of action EVIDENCE (R133). -/
def State.evidenceFinding (s : State) (f : Finding) (src : Source) : Finding × State :=
  if f.action = .evidence then
    let r := s.requestCopy
      { severity := f.severity, cls := f.cls, face := faceOf f.strand f.face, minCell := f.minCell, maxCell := f.maxCell,
        firstTravel := f.firstTravel, lastTravel := src.lastTravel, window := src.window, firstRing := src.firstRing,
        lastRing := src.lastRing, poolEntry := s.freeEntry }
    ({ f with evidence := r.1.1, tile := r.1.2 }, r.2)
  else (f, s)

/-- A Hold List with an entry joined: behind every entry of equal or less first travel (R135). -/
def joinHold (e : PoolEntry) (l : List PoolEntry) : List PoolEntry :=
  insertBy (fun x y => x.finding.firstTravel < y.finding.firstTravel) e l

/-- Step 4: the finding joins its strand's Hold List (R135), or the overflow tally when the pool is full (R136), with the marks
that each names. -/
def State.holdFinding (s : State) (f : Finding) : State :=
  let b := s.billet f.strand
  match s.freeEntry with
  | some n =>
    ((s.setBillet f.strand
      { b with holdList := joinHold { number := n, finding := f } b.holdList, listed := bump b.listed }).markDirty 1).markStrand
      f.strand
  | none =>
    ((s.setBillet f.strand { b with tally := b.tally.addFinding f.cls f.severity, unlisted := bump b.unlisted }).raise
      .trackLimit).markStrand f.strand

/-- A finding formed at a close is handled to its end (R126). -/
def State.handleFinding (s : State) (f : Finding) (src : Source) : State :=
  let b := s.billet f.strand
  let r1 := (s.setBillet f.strand { b with findings := bump b.findings }).filterFinding f
  let r2 := (r1.2.alertFinding r1.1).evidenceFinding r1.1 src
  r2.2.holdFinding r2.1

/-! ### The Findings Ring (R138, R139) -/

/-- The ring is full when its unconsumed records are 1023 (R138). -/
def State.ringFull (s : State) : Bool :=
  (s.ring.put + Config.ringPlaces - s.getIndex) % Config.ringPlaces == Config.ringPlaces - 1

/-- The address of ring slot j (R138). -/
def State.ringSlot (s : State) (j : Nat) : Nat := s.ctlBase + 0x10000 + j * 64

/-! ### A billet close -/

/-- The address of a strand's bank (R9, R140). -/
def State.bankBase (s : State) (k : Fin 4) (b : Bank) : Nat :=
  s.ctlBase + 0x8000 + k.val * 0x200 + (match b with
    | .bankA => 0
    | .bankB => 0x100)

/-- The working record with an entry counted (R142). -/
def Working.countEntry (f : Finding) (w : Working) : Working :=
  { w with
    classes := w.classes.add 1 f.cls
    severity3 := if f.severity = 3 then w.severity3 + 1 else w.severity3
    worst := max w.worst f.severity
    evidenceRequested := if f.action = .evidence then w.evidenceRequested + 1 else w.evidenceRequested }

/-- An entry of strand k has left the pool (R137): the Evidence Engine is told, and blocks 1 and 2 + k are marked. -/
def State.entryFreed (s : State) (k : Fin 4) (number : Nat) : State :=
  ((s.forgetEntry number).markDirty 1).markStrand k

/-- The front entry is taken: counted, and out of the pool (R142, R137). -/
def State.takeFront (s : State) (k : Fin 4) (e : PoolEntry) (f : Working → Working) : State :=
  let b := s.billet k
  (s.setBillet k { b with holdList := b.holdList.tail, working := f (b.working.countEntry e.finding) }).entryFreed k
    e.number

/-- An entry not written for a full ring (R139). -/
def State.takeUnpublished (s : State) (k : Fin 4) (e : PoolEntry) : State :=
  let s1 := s.takeFront k e fun w => { w with unpublished := w.unpublished + 1 }
  let b := s1.billet k
  let s2 := s1.setBillet k { b with unpublishedCount := bump b.unpublishedCount }
  { s2 with ring := { s2.ring with full := bump s2.ring.full } }.raise .ringFull

/-- An entry written to the slot at the put index (R139, R142). -/
def State.takePublished (s : State) (k : Fin 4) (e : PoolEntry) : State :=
  let b := s.billet k
  let j := s.ring.put
  let s1 := s.pushOwn
    { tag := .ringRecord, addr := BitVec.ofNat 40 (s.ringSlot j), count := 64,
      data := ringRecord e.finding b.working.billetNumber b.working.head }
  let s2 := s1.takeFront k e fun w =>
    { w with published := w.published + 1, firstRing := if w.firstRing.isNone then some j else w.firstRing }
  let b2 := s2.billet k
  let s3 := s2.setBillet k { b2 with publishedCount := bump b2.publishedCount }
  { s3 with ring :=
    { s3.ring with
      put := (j + 1) % Config.ringPlaces, writesPending := s3.ring.writesPending + 1, written := bump s3.ring.written } }

/-- The next record half joins the queue (R145); `granted` is a place given to this close. -/
def State.queueHalf (s : State) (k : Fin 4) : State :=
  let b := s.billet k
  let base := s.bankBase k b.published.other
  let t : OwnTxn :=
    if b.halvesQueued = 0 then
      { tag := .billetHalf k, addr := BitVec.ofNat 40 base, count := 64, data := billetFirstHalf k b.working }
    else
      { tag := .billetHalf k, addr := BitVec.ofNat 40 (base + 64), count := 64, data := billetSecondHalf k b.working }
  (s.pushOwn t).setBillet k { b with halvesQueued := b.halvesQueued + 1 }

/-- The two halves join the queue, each at the first event at which a place is given to this close (R145). -/
def State.queueHalves (k : Fin 4) : Nat → Bool → State → State
  | 0, _, s => s
  | fuel + 1, granted, s =>
    if (s.billet k).halvesQueued < 2 then
      if granted || s.placeFree then State.queueHalves k fuel false (s.queueHalf k) else s.beginWait (.close k)
    else s

/-- The working record with the overflow tally folded in (R143). -/
def Working.fold (t : Tally) (w : Working) : Working :=
  { w with
    unlisted := t.count, classes := w.classes.plus t.classes, worst := max w.worst t.worst, overflow := 0 < t.count }

/-- The working record with the gap list read (R144). -/
def Working.readGaps (l : List GapEntry) (w : Working) : Working :=
  let m := lostFaces w.head w.tail l
  { w with coverageMask := m, coverageLost := m != 0 }

/-- The end of the taking: the tally is folded in and zeroed, the gap list read, and the record writes begin (R142 to
R145). -/
def State.endTaking (s : State) (k : Fin 4) (granted : Bool) : State :=
  let b := s.billet k
  let u := s.unit k
  let w := (b.working.fold b.tally).readGaps u.gaps
  let s1 := (s.setBillet k { b with working := w, tally := .zero, close := .recording }).setUnit k
    { u with gaps := keptGaps w.tail u.gaps }
  State.queueHalves k 2 granted s1

/-- The taking of entries from the front of the strand's Hold List (R142). `granted` is a place of the Own Traffic Queue
given to this close and not yet used; the fuel is more than the entries the list holds. -/
def State.runTaking (k : Fin 4) : Nat → Bool → State → State
  | 0, _, s => s
  | fuel + 1, granted, s =>
    match (s.billet k).holdList with
    | [] => s.endTaking k granted
    | e :: _ =>
      if (s.billet k).working.tail ≤ e.finding.firstTravel then s.endTaking k granted
      else if e.finding.action = .count then State.runTaking k fuel granted (s.takeFront k e id)
      else if s.ringFull then State.runTaking k fuel granted (s.takeUnpublished k e)
      else if granted || s.placeFree then State.runTaking k fuel false (s.takePublished k e)
      else s.beginWait (.close k)

/-- The taking goes on from the state as it stands. -/
def State.continueTaking (s : State) (k : Fin 4) (granted : Bool) : State :=
  State.runTaking k ((s.billet k).holdList.length + 1) granted s

/-- A close starts (R141). -/
def State.startClose (s : State) (k : Fin 4) (kind : CloseKind) (tail : Nat) : State :=
  let b := s.billet k
  let w : Working :=
    { Working.cleared with
      billetNumber := (s.unit k).billetNumber, head := b.headBoundary, tail := tail, length := tail - b.headBoundary,
      first := b.firstPending, final := kind = .final }
  (s.setBillet k
    { b with working := w, close := .taking, inHand := some (kind, tail), halvesQueued := 0, halvesAnswered := 0
      }).continueTaking k false

/-- A place is given to a strand's close: it goes on from the step at which it waits (R142, R145, R148). -/
def State.closeGiven (s : State) (k : Fin 4) : State :=
  match (s.billet k).close with
  | .idle => s
  | .taking => s.continueTaking k true
  | .recording => State.queueHalves k 2 true s

/-- Pool entries of strand k told free one after another (R137). -/
def State.forgetEntries (k : Fin 4) : List PoolEntry → State → State
  | [], s => s
  | e :: rest, s => State.forgetEntries k rest (s.entryFreed k e.number)

/-- The entries left at the end of the final close are discarded (R147), with `more` tallied findings counted too. -/
def State.discardHolds (s : State) (k : Fin 4) (more : Nat) : State :=
  let b := s.billet k
  State.forgetEntries k b.holdList
    (s.setBillet k { b with holdList := [], discardedHolds := bumpBy (b.holdList.length + more) b.discardedHolds })

/-- The final close has ended (R50, R147): the strand becomes IDLE and its predictor OFF. -/
def State.endFinal (s : State) (k : Fin 4) : State :=
  let x := s.strand k
  (s.setStrand k
    { x with
      unit := { x.unit with state := .idle, stopMarker := none, pendingBoundary := none }
      predictor := x.predictor.finish }).markStrand k

/-- A FINAL close with a boundary not above the head boundary: no record, the list and the tally discarded, the close ended
(R147). -/
def State.finalWithoutRecord (s : State) (k : Fin 4) : State :=
  let s1 := s.discardHolds k (s.billet k).tally.count
  (s1.setBillet k { s1.billet k with tally := .zero, close := .idle, inHand := none }).endFinal k

/-- A FINAL close starts, or ends at once (R141, R147). -/
def State.startFinal (s : State) (k : Fin 4) (f : Nat) : State :=
  if f ≤ (s.billet k).headBoundary then s.finalWithoutRecord k else s.startClose k .final f

/-- A boundary is handed over by the Track Table (R102, R141). -/
def State.handBoundary (s : State) (k : Fin 4) (b : Nat) : State :=
  if (s.billet k).close = .idle then s.startClose k .boundary b else s

/-- A final boundary is handed over by the Track Table (R103, R141). -/
def State.handFinal (s : State) (k : Fin 4) (f : Nat) : State :=
  if (s.billet k).close = .idle then s.startFinal k f
  else s.setBillet k { s.billet k with finalWaiting := some f }

/-- What the flip changes in the Billet Unit's record (R146). -/
def Billet.flip (b : Billet) : Billet :=
  { b with
    published := b.published.other, working := .cleared, headBoundary := b.working.tail, firstPending := false,
    close := .idle, inHand := none, halvesQueued := 0, halvesAnswered := 0, billetsClosed := bump b.billetsClosed }

/-- What the end of a close changes in the Strand Travel Unit (R59, R146). -/
def StrandUnit.closeEnded (kind : CloseKind) (u : StrandUnit) : StrandUnit :=
  match kind with
  | .boundary => { u with pendingBoundary := none, billetNumber := u.billetNumber + 1 }
  | .final => { u with billetNumber := u.billetNumber + 1 }

/-- A final boundary waiting behind the close that has just ended starts its close at the same event (R146). -/
def State.startWaitingFinal (s : State) (k : Fin 4) : State :=
  match (s.billet k).finalWaiting with
  | none => s
  | some f => (s.setBillet k { s.billet k with finalWaiting := none }).startFinal k f

/-- The strand flips (R146); a FINAL close then ends with its discards (R147). -/
def State.flip (s : State) (k : Fin 4) : State :=
  let kind := ((s.billet k).inHand.map (·.1)).getD .boundary
  let s1 := (((s.setBillet k (s.billet k).flip).setUnit k ((s.unit k).closeEnded kind)).raise .billet).markStrand k
  match kind with
  | .final => (s1.discardHolds k 0).endFinal k
  | .boundary => s1.startWaitingFinal k

/-- A record half is answered; at the second the strand flips (R146). -/
def State.halfAnswered (s : State) (k : Fin 4) : State :=
  let b := s.billet k
  let s1 := s.setBillet k { b with halvesAnswered := b.halvesAnswered + 1 }
  if b.halvesAnswered + 1 = 2 then s1.flip k else s1

/-! ### The zero records of STARTING (R140) -/

/-- The address of the n-th zero record write: bank A of strand 0, then bank B, then the other strands' banks, two halves
each (R140). R140 orders the banks only; that the half at the lower address is written first is the model's choice (log 44). -/
def State.zeroAddress (s : State) (n : Nat) : Nat :=
  s.ctlBase + 0x8000 + n / 4 * 0x200 + n / 2 % 2 * 0x100 + n % 2 * 64

/-- Zero record writes join the queue while places remain, and wait otherwise (R140). -/
def State.queueZeros : Nat → Bool → State → State
  | 0, _, s => s
  | fuel + 1, granted, s =>
    if 0 < s.zeroToQueue then
      if granted || s.placeFree then
        let t : OwnTxn :=
          { tag := .zeroRecord, addr := BitVec.ofNat 40 (s.zeroAddress (16 - s.zeroToQueue)), count := 64,
            data := zeroBytes 64 }
        State.queueZeros fuel false ({ s with zeroToQueue := s.zeroToQueue - 1 }.pushOwn t)
      else s.beginWait .zeroRecords
    else s

end Sys2Proof.Machine
end

