-- ==== Sys2Proof/Machine/Tracks.lean ====
section
/-!
DEFINITION. The Track Table (05_the_track_table.md): closes, interruptions, takings of results and of markers.
-/
namespace Sys2Proof.Machine

/-! ### Measures and class (R105 to R108) -/

def Track.length (t : Track) : Nat := t.lastTravel - t.firstTravel
def Track.extent (t : Track) : Nat := t.maxCell + 1 - t.minCell

/-- The class of a closed track: a finding class, OSC-MARK or SCALE (R107). -/
inductive CloseClass where
  | finding (c : FindingClass)
  | oscMark
  | scale
  deriving DecidableEq, Repr

/-- A track is mark-like (R106). -/
def Track.markLike (x : StrandSettings) (inWindow : Bool) (t : Track) : Bool := x.markSpanCells ≤ t.extent || inWindow

/-- The class of a closed track: the first row whose condition holds (R107). -/
def Track.classify (x : StrandSettings) (inWindow : Bool) (t : Track) : CloseClass :=
  if t.edge && x.longMin ≤ t.length then .finding .corner
  else if x.longMin ≤ t.length && t.extent ≤ x.widthMax then .finding .longitudinal
  else if t.length ≤ x.transMaxLen && x.transMinCells ≤ t.extent then
    if t.markLike x inWindow then
      if x.deepContrast ≤ t.peak then .finding .markRoot else .oscMark
    else .finding .transverse
  else .scale

/-- A finding's severity, 1 to 3 (R108). -/
def Track.severity (x : StrandSettings) (c : FindingClass) (t : Track) : Nat :=
  let long : Bool := match c with
    | .corner | .longitudinal => x.sevLength ≤ t.length
    | .transverse | .markRoot => x.sevWidth ≤ t.extent
  1 + (if x.sevContrast ≤ t.peak then 1 else 0) + (if long then 1 else 0)

/-! ### Closing a track (R104) -/

/-- The finding record of a closed track (R110, R126, R127). -/
def Track.toFinding (x : StrandSettings) (c : FindingClass) (evicted interrupted inWindow : Bool) (t : Track) : Finding :=
  let k := strandOf t.face
  let f := faceIn t.face
  let v := t.severity x c
  { strand := k, face := f, cls := c, severity := v, lowConf := t.lowConf, evicted := evicted, interrupted := interrupted,
    cutSplit := t.cutSplit, markWindow := inWindow,
    key := findingKey c v k f t.lowConf evicted interrupted t.cutSplit inWindow, filterHit := none, action := .count,
    firstTravel := t.firstTravel, length := t.length, minCell := t.minCell, maxCell := t.maxCell, lines := t.lines,
    peak := t.peak, evidence := .notAsked, tile := none }

/-- Steps 1 to 3 of a close (R104): the track is measured and classified, and its outcome handed on (R109, R110). An observation
marks the strand's block where it changes what the predictor publishes (R113). The source window is the entry that feeds the face,
which an OPEN track's face always has (R86; log 27). -/
def State.handOn (s : State) (t : Track) (evicted interrupted : Bool) : State :=
  let k := strandOf t.face
  let x := s.settings k
  let p := s.predictor k
  let inWindow := p.inWindow x.tolerance t.firstTravel
  let n := (s.face t.face).tracks
  match t.classify x inWindow with
  | .scale => s.setTrackCounts t.face { n with scales := bump n.scales }
  | .oscMark =>
    let s1 := s.setTrackCounts t.face { n with oscMarks := bump n.oscMarks }
    if x.markSpanCells ≤ t.extent then s1.changePredictor k (p.observe x.tolerance t.firstTravel) else s1
  | .finding c =>
    ((s.setTrackCounts t.face { n with findings := bump n.findings }).markFace t.face).handleFinding
      (t.toFinding x c evicted interrupted inWindow)
      { window := (s.feeding t.face).getD 0, firstRing := t.firstRing, lastRing := t.lastRing, lastTravel := t.lastTravel }

/-- An entry's track is closed: all four steps (R104). The change of the open-tracks count marks the face's block (R111). -/
def State.closeEntry (s : State) (e : Fin 64) (evicted interrupted : Bool) : State :=
  match s.track e with
  | none => s
  | some t =>
    let s1 := (s.handOn t evicted interrupted).setTrack e none
    let n := (s1.face t.face).tracks
    (s1.setTrackCounts t.face { n with openTracks := n.openTracks - 1 }).markFace t.face

/-- The OPEN tracks that a test names, in ascending order of first travel and then of entry number. -/
def State.openWhere (s : State) (test : Track → Bool) : List (Fin 64 × Track) :=
  sortBy (fun x y => x.2.firstTravel < y.2.firstTravel || (x.2.firstTravel == y.2.firstTravel && x.1 < y.1))
    ((List.finRange 64).filterMap fun e => (s.track e).bind fun t => if test t then some (e, t) else none)

/-- Tracks closed one after another, each handled whole before the next. -/
def State.closeEntries (interrupted : Bool) : List (Fin 64 × Track) → State → State
  | [], s => s
  | x :: rest, s => State.closeEntries interrupted rest (s.closeEntry x.1 false interrupted)

/-- An interruption of face k (R98): its tracks close INTERRUPTED, then the stale count becomes the queued count. -/
def State.interruptFace (s : State) (k : Fin 16) : State :=
  let s1 := State.closeEntries true (s.openWhere fun t => t.face == k) s
  s1.setFace k { s1.face k with staleCount := (s1.face k).queuedCount }

/-! ### A used result (R90) -/

/-- Step 1, aging (R91). -/
def State.ageTracks (s : State) (r : LineResult) : State :=
  let gap := (s.settings (strandOf r.face)).gap
  State.closeEntries false (s.openWhere fun t => t.face == r.face && t.lastTravel + gap < r.stamp) s

/-- A segment matches a track by its last span widened by one cell on each side, within Gap of travel (R93). -/
def Track.matchesSegment (gap stamp : Nat) (g : Segment) (t : Track) : Bool :=
  t.spanFirst ≤ g.last + 1 && g.first ≤ t.spanLast + 1 && stamp - t.lastTravel ≤ gap

/-- The entry that a segment extends: of those it matches the one of lowest first travel, then of lowest number (R93).
The list is in that order. -/
def matchOf (gap stamp : Nat) (open_ : List (Fin 64 × Track)) (g : Segment) : Option (Fin 64) :=
  (open_.find? fun x => x.2.matchesSegment gap stamp g).map (·.1)

/-- A segment includes FirstCell, FirstCell + 1, LastCell − 1 or LastCell (R94, R95). -/
def Segment.touchesEdge (w : Window) (g : Segment) : Bool :=
  [w.firstCell, w.firstCell + 1, w.lastCell - 1, w.lastCell].any fun c => g.first ≤ c && c ≤ g.last

/-- A track extended by the segments of one line (R94). -/
def Track.extend (w : Option Window) (r : LineResult) (gs : List Segment) (t : Track) : Track :=
  let low := gs.foldl (fun m g => min m g.first)
  let high := gs.foldl (fun m g => max m g.last)
  match gs with
  | [] => t
  | g :: _ =>
    { t with
      lastTravel := r.stamp, lastRing := r.ringLine, spanFirst := low g.first, spanLast := high g.last,
      minCell := low t.minCell, maxCell := high t.maxCell, lines := min (t.lines + 1) 65535,
      peak := gs.foldl (fun m x => max m x.peak) t.peak,
      sum := min (t.sum + (gs.map (·.peak)).sum) 16777215,
      edge := t.edge || gs.any fun x => w.any fun y => x.touchesEdge y
      lowConf := t.lowConf || r.lowConf }

/-- Step 3: the tracks that gained a segment are extended (R93, R94). -/
def State.extendTracks (w : Option Window) (r : LineResult) (matched : List (Segment × Option (Fin 64))) :
    List (Fin 64 × Track) → State → State
  | [], s => s
  | x :: rest, s =>
    let gs := (matched.filter fun m => m.2 == some x.1).map (·.1)
    let s1 := if gs.isEmpty then s else s.setTrack x.1 (some (x.2.extend w r gs))
    State.extendTracks w r matched rest s1

/-- The track that a segment opens (R95). -/
def newTrack (w : Option Window) (r : LineResult) (g : Segment) : Track :=
  { face := r.face, firstTravel := r.stamp, lastTravel := r.stamp, firstRing := r.ringLine, lastRing := r.ringLine,
    minCell := g.first, maxCell := g.last, spanFirst := g.first, spanLast := g.last, lines := 1, peak := g.peak,
    sum := g.peak, edge := w.any fun y => g.touchesEdge y, lowConf := r.lowConf, cutSplit := false }

/-- A segment opens a track in an entry (R95). The change of the open-tracks count marks the face's block (R111). -/
def State.openTrack (s : State) (e : Fin 64) (t : Track) : State :=
  let n := (s.face t.face).tracks
  ((s.setTrack e (some t)).setTrackCounts t.face
    { n with opened := bump n.opened, openTracks := n.openTracks + 1 }).markFace t.face

def State.freeTrack (s : State) : Option (Fin 64) := (List.finRange 64).find? fun e => (s.track e).isNone

/-- Of two OPEN entries the one evicted first: smaller contrast sum, then lower first travel, then lower number (R96). -/
def State.weaker (s : State) (best : Option (Fin 64 × Track)) (e : Fin 64) : Option (Fin 64 × Track) :=
  match s.track e, best with
  | none, _ => best
  | some t, none => some (e, t)
  | some t, some (_, u) =>
    if t.sum < u.sum || (t.sum == u.sum && t.firstTravel < u.firstTravel) then some (e, t) else best

def State.trackVictim (s : State) : Option (Fin 64 × Track) := (List.finRange 64).foldl s.weaker none

/-- Step 4 for one segment: a FREE entry, an eviction, or a drop (R95, R96, R97). -/
def State.openSegment (s : State) (w : Option Window) (r : LineResult) (g : Segment) : State :=
  let dropped :=
    let n := (s.face r.face).tracks
    ((s.setTrackCounts r.face { n with droppedSegments := bump n.droppedSegments }).raise .trackLimit).markFace r.face
  match s.freeTrack with
  | some e => s.openTrack e (newTrack w r g)
  | none =>
    match s.trackVictim with
    | none => dropped
    | some (e, v) =>
      if v.sum < g.peak then
        let s1 := s.closeEntry e true false
        let n := (s1.face v.face).tracks
        (s1.setTrackCounts v.face { n with evicted := bump n.evicted }).openTrack e (newTrack w r g)
      else dropped

/-- Step 4: the segments that matched no track, in ascending order of start cell (R95). -/
def State.openSegments (w : Option Window) (r : LineResult) : List Segment → State → State
  | [], s => s
  | g :: rest, s => State.openSegments w r rest (s.openSegment w r g)

/-- A used result, its five steps in order (R90). One with no segment ends after the second, so its GAP is not counted
(log 35). -/
def State.useResult (s : State) (r : LineResult) : State :=
  let k := strandOf r.face
  let gap := (s.settings k).gap
  let s2 := (s.ageTracks r).stampPredictor k r.stamp
  let w := (s2.feeding r.face).map s2.window
  let open_ := s2.openWhere fun t => t.face == r.face
  let matched := r.segments.map fun g => (g, matchOf gap r.stamp open_ g)
  let s3 := State.extendTracks w r matched open_ s2
  let s4 := State.openSegments w r ((matched.filter fun m => m.2.isNone).map (·.1)) s3
  let n := (s4.face r.face).tracks
  if r.gap && !r.segments.isEmpty then s4.setTrackCounts r.face { n with gapResults := bump n.gapResults } else s4

/-- A result of face k is taken (R88, R89): discarded when it is stale or its strand is STOPPING, used otherwise. -/
def State.takeResult (s : State) (r : LineResult) : State :=
  let x := s.face r.face
  let s1 := s.setFace r.face { x with queuedCount := x.queuedCount - 1 }
  if 0 < x.staleCount || !(s.unit (strandOf r.face)).moving then
    let y := s1.face r.face
    s1.setFace r.face
      { y with
        staleCount := y.staleCount - 1
        tracks := { y.tracks with discardedResults := bump y.tracks.discardedResults } }
  else s1.useResult r

/-! ### Markers (R100 to R103) -/

/-- The part of a track before a boundary (R100). -/
def Track.partBefore (b : Nat) (t : Track) : Track := { t with lastTravel := b - 1, cutSplit := true }

/-- The continuation of a split track (R101). -/
def Track.continuation (b : Nat) (t : Track) : Track :=
  { t with firstTravel := b, lines := 1, sum := t.peak, cutSplit := true }

/-- One track that a boundary names: closed when it lies wholly before b, split otherwise (R100, R101). -/
def State.cutTrack (s : State) (b : Nat) (e : Fin 64) (t : Track) : State :=
  if t.lastTravel < b then s.closeEntry e false false
  else
    let s1 := (s.handOn (t.partBefore b) false false).setTrack e (some (t.continuation b))
    let n := (s1.face t.face).tracks
    s1.setTrackCounts t.face { n with splits := bump n.splits }

def State.cutTracks (b : Nat) : List (Fin 64 × Track) → State → State
  | [], s => s
  | x :: rest, s => State.cutTracks b rest (s.cutTrack b x.1 x.2)

/-- An OWED stop marker joins the queue at the taking of the boundary marker that held its place (R60, R83). -/
def State.queueOwedStop (s : State) (k : Fin 4) : State :=
  let u := s.unit k
  match u.stopMarker with
  | some (.owed, f) =>
    { s with lineQueue := s.lineQueue ++ [QueueEntry.stop k f] }.setUnit k { u with stopMarker := some (.queued, f) }
  | some (.queued, _) | some (.taken, _) | none => s

/-- A boundary marker is taken (R100, R102). -/
def State.takeBoundary (s : State) (k : Fin 4) (b : Nat) : State :=
  let s1 := s.queueOwedStop k
  (State.cutTracks b (s1.openWhere fun t => strandOf t.face == k && t.firstTravel < b) s1).handBoundary k b

/-- A stop marker is taken (R50, R103). -/
def State.takeStop (s : State) (k : Fin 4) (f : Nat) : State :=
  let s1 := s.setUnit k { s.unit k with stopMarker := some (.taken, f) }
  (State.closeEntries true (s1.openWhere fun t => strandOf t.face == k) s1).handFinal k f

/-- A taking (R83, R88): the head entry leaves the queue and is processed whole. No taking is made of an empty queue. -/
def State.take (s : State) : State :=
  match s.lineQueue with
  | [] => s
  | x :: rest =>
    let s1 := { s with lineQueue := rest }
    match x with
    | .result r => s1.takeResult r
    | .boundary k b => s1.takeBoundary k b
    | .stop k f => s1.takeStop k f

end Sys2Proof.Machine
end

