-- ==== Sys2Proof/Machine/Capture.lean ====
section
/-!
DEFINITION. Head Health (R36 to R43), the Surface Model (R67 to R80), the offer of line results (R82), the Line Assembler
(R29 to R35), and what the enable and disable of a window change in them (R27, R28).
-/
namespace Sys2Proof.Machine

/-! ### The Surface Model's states (R69, R70) -/

/-- Every entry to WARMUP starts the warm-up count at 0 (R69). -/
def Model.enterWarmUp (m : Model) : Model :=
  { m with state := .warmUp, warmUp := 0, forView := false, forHead := false }

/-- A suspend reason is added; a DISABLED model takes none (R70). -/
def Model.suspend (view : Bool) (m : Model) : Model :=
  if m.state = .disabled then m
  else { m with state := .suspended, forView := m.forView || view, forHead := m.forHead || !view }

/-- A suspend reason is removed; the model returns to WARMUP when none remains (R70). -/
def Model.resume (view : Bool) (m : Model) : Model :=
  if m.state = .suspended then
    let m1 := { m with forView := m.forView && !view, forHead := m.forHead && view }
    if m1.forView || m1.forHead then m1 else m1.enterWarmUp
  else m

/-- The model at a window enable, by the view level (R69): WARMUP from count 0, or SUSPENDED with the warm-up count it holds. -/
def Model.atEnable (viewActive : Bool) (m : Model) : Model :=
  let m1 := { m with lastStamp := none }
  if viewActive then { m1 with state := .suspended, forView := true, forHead := false } else m1.enterWarmUp

/-- The model at a window disable (R69). -/
def Model.atDisable (m : Model) : Model := { m with state := .disabled, forView := false, forHead := false }

/-- The model at STRAND START of its strand (R69). -/
def Model.atStart (m : Model) : Model :=
  let m1 := { m with lastStamp := none }
  match m.state with
  | .warmUp | .ready => m1.enterWarmUp
  | .suspended | .disabled => m1

/-- The model suspended for a blocked view, with its coverage notice when it leaves READY (R61, R71). -/
def State.suspendForView (s : State) (k : Fin 16) : State :=
  let m := (s.face k).model
  let s1 := s.setModel k (m.suspend true)
  if m.state = .ready then s1.uncoverFace k else s1

/-- The model resumed when the view clears (R61, R70). -/
def State.resumeForView (s : State) (k : Fin 16) : State := s.setModel k ((s.face k).model.resume true)

/-! ### Head Health (R37 to R43) -/

/-- The head state that follows a counter in ACTIVE and PASSIVE (R37). -/
def headStateOf (errors : Nat) : HeadState :=
  if 256 ≤ errors then .off else if 128 ≤ errors then .passive else .active

/-- An error event of +8 in ACTIVE or PASSIVE (R37, R39). -/
def Head.plus8 (h : Head) : Head :=
  let e := min (h.errors + 8) 256
  { h with errors := e, state := headStateOf e, warning := h.warning || (h.errors < 96 && 96 ≤ e) || e == 256 }

/-- An error event of +8 raises HEAD (R39): the counter passes 96, or the head becomes PASSIVE or OFF. -/
def Head.plus8Raises (h : Head) : Bool :=
  let e := min (h.errors + 8) 256
  (h.errors < 96 && 96 ≤ e) || (h.state == .active && headStateOf e == .passive) || headStateOf e == .off

/-- A good-line event in ACTIVE or PASSIVE (R37, R39). -/
def Head.minus1 (h : Head) : Head :=
  let e := h.errors - 1
  { h with errors := e, state := headStateOf e, warning := h.warning && e != 0 }

/-- The return to OFF from RECOVERING (R43). -/
def Head.backOff (h : Head) : Head := { h with state := .off, errors := 256, warning := true, goodRun := 0 }

/-- A head becomes what is given; every change of it marks block 6 + k (R39). -/
def State.changeHead (s : State) (k : Fin 16) (h : Head) : State :=
  if h = (s.face k).head then s.setHead k h else (s.setHead k h).markFace k

/-- The head's entry to OFF from PASSIVE tells its neighbours (R40): the face's tracks close INTERRUPTED, the model is
suspended, and the strand is told that the face is not covered. -/
def State.headEntersOff (s : State) (k : Fin 16) : State :=
  let s1 := s.interruptFace k
  (s1.setModel k ((s1.face k).model.suspend false)).uncoverFace k

/-- An error event reaches a head (R37, R38, R42, R43). -/
def State.headError (s : State) (k : Fin 16) : State :=
  let h := (s.face k).head
  match h.state with
  | .active | .passive =>
    let s1 := (s.changeHead k h.plus8).raiseIf h.plus8Raises .head
    if h.plus8.state = .off then s1.headEntersOff k else s1
  | .recovering => (s.changeHead k h.backOff).raise .head
  | .off | .disabled => s

/-- A good-line event reaches a head (R37, R42). -/
def State.headGood (s : State) (k : Fin 16) : State :=
  let h := (s.face k).head
  match h.state with
  | .active | .passive => s.changeHead k h.minus1
  | .recovering =>
    if h.goodRun + 1 = Config.goodRunLines then
      let s1 := s.changeHead k { h with state := .active, errors := 0, goodRun := h.goodRun + 1 }
      s1.setModel k ((s1.face k).model.resume false)
    else s.changeHead k { h with goodRun := h.goodRun + 1 }
  | .off | .disabled => s

/-- HEAD RESTART performed (R41, R44). -/
def State.restartHead (s : State) (k : Fin 16) : State :=
  let x := s.face k
  s.setFace k
    { x with
      head := { state := .recovering, errors := 0, warning := false, goodRun := 0 }
      capture := { x.capture with restarts := bump x.capture.restarts } }

/-- An ERROR response to a captured write reaches the head of the face that its window fed at arrival (R38). The memory-error count
rises in every state of the head, DISABLED too, where R28 and R44 speak against it: the model's reading (log 43). -/
def State.captureError (s : State) (k : Fin 16) : State :=
  let c := (s.face k).capture
  ((s.setCapture k { c with memoryErrors := bump c.memoryErrors }).headError k).raise .memErr

/-! ### Cells and segments (R22, R23, R74 to R78) -/

/-- The 8 pixel values of a cell's bytes: the dropped byte of each group left out (R22). -/
def cellPixels (format : Nat) (bytes : List Byte) : List Byte :=
  let keep : Nat → Bool := fun i =>
    if format = 0 then true else if format = 1 then i % 5 < 4 else i % 3 < 2
  (bytes.zipIdx.filter fun b => keep b.2).map (·.1)

/-- The pixel values of the face's cells, cell FirstCell first (R23). -/
def facePixels (x : Window) (line : List Byte) : List (List Byte) :=
  (List.range (x.lastCell + 1 - x.firstCell)).map fun i =>
    cellPixels x.pixelFormat ((line.drop (x.cellStart (x.firstCell + i))).take x.cellBytes)

/-- The cell minimum (R74). -/
def cellMinimum (l : List Byte) : Nat := l.foldl (fun m b => min m b.toNat) 255

/-- The cell mean in units of 1/256: the sum of the 8 values times 32 (R74). -/
def cellMean (l : List Byte) : Nat := (l.map (·.toNat)).sum * 32

/-- The contrast of a cell (R76): the integer part of its background minus its minimum, or 0. -/
def contrast (background minimum : Nat) : Nat := background / 256 - minimum

/-- The maximal runs of hot cells, from a cell number and the contrasts from there on (R77). -/
def segmentsFrom (threshold : Nat) : Nat → Option Segment → List Nat → List Segment
  | _, run, [] => run.toList
  | cell, run, c :: rest =>
    if threshold ≤ c then
      let g := match run with
        | none => { first := cell, last := cell, peak := c }
        | some g => { g with last := cell, peak := max g.peak c }
      segmentsFrom threshold (cell + 1) (some g) rest
    else run.toList ++ segmentsFrom threshold (cell + 1) none rest

/-- A background moved a sixteenth of the way toward a mean, the quotient taken toward zero (R78). -/
def moveBackground (background mean : Nat) : Nat :=
  if background ≤ mean then background + (mean - background) / 16 else background - (background - mean) / 16

/-- A completed line as it is passed on to the Surface Model: the face channel it belongs to, the source window that carried it,
its ring line and stamp, its marks, and the pixel values of the face's cells (R34). -/
structure Line where
  face : Fin 16
  window : Fin 16
  stamp : Nat
  index : Nat
  gap : Bool
  lowConf : Bool
  firstCell : Nat
  cells : List (List Byte)
  deriving DecidableEq, Repr

/-- The background of the face's cells replaced by a function of the old value and the cell's mean (R75, R78). -/
def Model.mapBackground (l : Line) (f : Nat → Nat → Nat → Nat) (m : Model) : Vector Nat 512 :=
  vtab fun c =>
    if l.firstCell ≤ c.val && c.val < l.firstCell + l.cells.length then
      f c.val (vget m.background c) (cellMean (l.cells.getD (c.val - l.firstCell) []))
    else vget m.background c

/-- The contrasts of a line's cells against a model's background (R76). -/
def Model.contrasts (l : Line) (m : Model) : List Nat :=
  l.cells.zipIdx.map fun x => contrast (m.background.getD (l.firstCell + x.2) 0) (cellMinimum x.1)

/-- The line's runs of hot cells (R77). -/
def Model.runs (threshold : Nat) (l : Line) (m : Model) : List Segment :=
  segmentsFrom threshold l.firstCell none (m.contrasts l)

/-- The model after processing a line, the line's segments, and whether it is NOISY (R75 to R79). The first line after an
entry to WARMUP initializes the background and makes no segment. -/
def Model.process (threshold : Nat) (l : Line) (m : Model) : Model × List Segment × Bool :=
  let m1 := { m with lastStamp := some l.stamp }
  if m.state = .warmUp ∧ m.warmUp = 0 then
    ({ m1 with background := m.mapBackground l fun _ _ mean => mean, warmUp := 1 }, [], false)
  else
    let runs := m.runs threshold l
    let noisy := Config.segmentLimit < runs.length
    let segments := if noisy then [] else runs
    let background :=
      if noisy then m.background
      else m.mapBackground l fun c old mean =>
        if segments.any fun g => g.first ≤ c && c ≤ g.last then old else moveBackground old mean
    let m2 := { m1 with background := background }
    let m3 :=
      if m.state = .warmUp then
        { m2 with
          warmUp := m.warmUp + 1, state := if m.warmUp + 1 = Config.warmUpLines then .ready else .warmUp }
      else m2
    (m3, segments, noisy)

/-! ### Admission (R72) -/

/-- What becomes of a line that reaches the model (R72, R84). -/
inductive Admission where
  | admitted
  | skipped
  | late
  deriving DecidableEq, Repr

/-- The admission tests in their order (R72). -/
def State.admission (s : State) (k : Fin 16) (stamp : Nat) : Admission :=
  let u := s.unit (strandOf k)
  let m := (s.face k).model
  let h := (s.face k).head
  if s.part ≠ .run then .skipped
  else if !u.moving then .skipped
  else if m.state ≠ .warmUp ∧ m.state ≠ .ready then .skipped
  else if h.state ≠ .active ∧ h.state ≠ .passive then .skipped
  else if u.travel < stamp then .skipped
  else if stamp < u.lastBoundary then .late
  else if m.lastStamp.any fun p => stamp < p + (s.settings (strandOf k)).minStep then .skipped
  else .admitted

/-- The number of results in the Line Result Queue (R81). -/
def resultsQueued (l : List QueueEntry) : Nat :=
  (l.filter fun x => match x with
    | .result _ => true
    | .boundary _ _ | .stop _ _ => false).length

/-- A line result is offered to the queue (R82, R89): it joins at the tail, or is dropped, counted and its block marked. -/
def State.offerResult (s : State) (r : LineResult) : State :=
  let x := s.face r.face
  if resultsQueued s.lineQueue < Config.resultPlaces then
    { s with lineQueue := s.lineQueue ++ [QueueEntry.result r] }.setFace r.face
      { x with counts := { x.counts with queued := bump x.counts.queued }, queuedCount := x.queuedCount + 1 }
  else
    ((s.setFace r.face { x with counts := { x.counts with dropped := bump x.counts.dropped } }).raise .trackLimit).markFace
      r.face

/-- An admitted line is processed by the Surface Model of its face channel (R74 to R80). -/
def State.processLine (s : State) (l : Line) : State :=
  let k := l.face
  let x := s.face k
  let p := x.model.process (s.crackThreshold k) l
  let s1 := s.setFace k
    { x with
      model := p.1
      counts := { x.counts with
        admittedLines := bump x.counts.admittedLines
        noisy := if p.2.2 then bump x.counts.noisy else x.counts.noisy } }
  if x.model.state = .ready then
    s1.offerResult
      { face := k, stamp := l.stamp, ringLine := l.index, noisy := p.2.2, gap := l.gap, lowConf := l.lowConf,
        segments := p.2.1 }
  else if p.1.state = .ready then s1.coverFace k
  else s1

/-- A line passed on reaches the Surface Model of its face channel (R34, R72). -/
def State.lineReaches (s : State) (l : Line) : State :=
  let k := l.face
  let n := (s.face k).counts
  match s.admission k l.stamp with
  | .admitted => s.processLine l
  | .skipped => s.setCounts k { n with skipped := bump n.skipped }
  | .late => s.setCounts k { n with late := bump n.late }

/-! ### The Line Assembler (R29, R31 to R34) -/

/-- A piece of a captured write (R29). -/
structure LinePiece where
  line : Nat
  start : Nat
  data : List Byte
  strobes : List Bool
  deriving DecidableEq, Repr

/-- The pieces of a write: its runs of bytes that fall in the pixel bytes of one line each, in ascending order (R29). -/
def linePieces (x : Window) (offset : Nat) (data : List Byte) (strobes : List Bool) : List LinePiece :=
  (linesTouched x.stride offset data.length).filterMap fun l =>
    let lo := max offset (l * x.stride)
    let hi := min (offset + data.length) (l * x.stride + x.lineBytes)
    if l < x.ringLines && lo < hi then
      some { line := l, start := lo - l * x.stride, data := (data.drop (lo - offset)).take (hi - lo),
             strobes := (strobes.drop (lo - offset)).take (hi - lo) }
    else none

/-- The assembler with its line dropped or done: IDLE with nothing carried. -/
def Assembler.empty (a : Assembler) : Assembler :=
  { a with filling := false, line := 0, carry := [], stamp := 0, gap := false }

/-- A tear (R33): the line is dropped, counted, and the head takes an error event. -/
def State.tearLine (s : State) (w : Fin 16) (k : Fin 16) : State :=
  let s1 := s.setAssembler w (s.assembler w).empty
  let c := (s1.face k).capture
  (s1.setCapture k { c with torn := bump c.torn }).headError k

/-- A line completes (R34). A line completed in RECOVERING is not passed on, the one that ends the recovery included
(R42; log 15). -/
def State.completeLine (s : State) (w : Fin 16) (x : Window) (line : List Byte) : State :=
  let k := x.channel
  let a := s.assembler w
  let before := (s.face k).head.state
  let s1 := s.headGood k
  let after := (s1.face k).head.state
  let s2 :=
    if before = .active ∨ before = .passive then
      s1.lineReaches
        { face := k, window := w, stamp := a.stamp, index := a.line, gap := a.gap, lowConf := after = .passive,
          firstCell := x.firstCell, cells := facePixels x line }
    else s1
  let c := (s2.face k).capture
  (s2.setCapture k { c with completed := bump c.completed }).setAssembler w
    { a.empty with lastCompleted := some a.line }

/-- A piece with every strobe set joins the line being filled, which may complete (R33, R34). -/
def State.appendPiece (s : State) (w : Fin 16) (x : Window) (p : LinePiece) : State :=
  let a := s.assembler w
  let carry := a.carry ++ p.data
  if carry.length < x.lineBytes then s.setAssembler w { a with carry := carry } else s.completeLine w x carry

/-- A piece in IDLE (R32): at offset 0 it opens its line, anywhere else it is ignored. A piece that opens a line with a
strobe clear tears the line it has opened, and that is the end of it (R33; log 33). -/
def State.pieceInIdle (s : State) (w : Fin 16) (x : Window) (p : LinePiece) : State :=
  if p.start ≠ 0 then s
  else
    let k := x.channel
    let a := s.assembler w
    let gap := a.lastCompleted.any fun l => p.line != (l + 1) % x.ringLines
    let c := (s.face k).capture
    let s1 := if gap then (s.setCapture k { c with sequenceGaps := bump c.sequenceGaps }).headError k else s
    let s2 := s1.setAssembler w
      { a with filling := true, line := p.line, carry := [], stamp := (s.unit (strandOf k)).travel, gap := gap }
    if p.strobes.all id then s2.appendPiece w x p else s2.tearLine w k

/-- A piece is handled by the assembler's state (R32, R33). -/
def State.handlePiece (s : State) (w : Fin 16) (x : Window) (p : LinePiece) : State :=
  let a := s.assembler w
  if a.filling then
    if p.line = a.line ∧ p.start = a.carry.length ∧ p.strobes.all id then s.appendPiece w x p
    else (s.tearLine w x.channel).pieceInIdle w x p
  else s.pieceInIdle w x p

def State.handlePieces (w : Fin 16) (x : Window) : List LinePiece → State → State
  | [], s => s
  | p :: rest, s => State.handlePieces w x rest (s.handlePiece w x p)

/-- A captured write reaches its window's Line Assembler (R11, R29). -/
def State.captureWrite (s : State) (w : Fin 16) (offset : Nat) (data : List Byte) (strobes : List Bool) : State :=
  State.handlePieces w (s.window w) (linePieces (s.window w) offset data strobes) s

/-! ### Enable and disable of a window (R27, R28, R30) -/

/-- A Window Table entry becomes enabled (R27), its fields already in the shadow; block 6 + k is marked. -/
def State.enableWindow (s : State) (w : Fin 16) : State :=
  let k := (s.window w).channel
  let x := s.face k
  (((s.setAssembler w .reset).setFace k
    { x with
      head := { state := .active, errors := 0, warning := false, goodRun := 0 }
      capture := .zero
      model := x.model.atEnable (s.unit (strandOf k)).viewActive
      counts := .zero
      tracks := { TrackCounts.zero with openTracks := x.tracks.openTracks } }).uncoverFace k).markFace k

/-- A Window Table entry is disabled (R28): the face's tracks close before the copy slots abort (R98, R165); block 6 + k is
marked. -/
def State.disableWindow (s : State) (w : Fin 16) : State :=
  let k := (s.window w).channel
  let s1 := (s.setAssembler w .reset).interruptFace k
  let x := s1.face k
  (((s1.setFace k { x with head := .reset, model := x.model.atDisable }).abortWindow w).uncoverFace k).markFace k

/-- Every Line Assembler is abandoned (R30). -/
def State.abandonLines (s : State) : State := { s with assemblers := Vector.replicate 16 .reset }

end Sys2Proof.Machine
end

