-- ==== Sys2Proof/Machine/Strand.lean ====
section
/-!
DEFINITION. The Strand Travel Unit's events (R47 to R62): encoder pulses and travel, cuts, the hold timer, the view level,
STRAND START and STRAND STOP; and the events of the oscillation input, the alert timer and the status period timer.
-/
namespace Sys2Proof.Machine

/-! ### Time (00_scope.md, Time; log 4) -/

/-- The time base as an event at the reading given finds it: it never goes back. -/
def State.atTime (s : State) (t : Nat) : State := { s with timeBase := max s.timeBase t }

/-- The same change made for each of a strand's faces, face 0 first. -/
def State.onFaces (k : Fin 4) (f : State → Fin 16 → State) (s : State) : State :=
  f (f (f (f s (faceOf k 0)) (faceOf k 1)) (faceOf k 2)) (faceOf k 3)

/-! ### Cut events (R55, R57, R58) -/

/-- Why a cut event is rejected: the first condition of R57's table that holds. -/
def StrandUnit.rejectCut (x : StrandSettings) (u : StrandUnit) : Option Reject :=
  if !u.moving then some .stateForbids
  else if u.travel < x.torchDistance then some .shortTravel
  else if u.travel - x.torchDistance ≤ u.lastBoundary then some .notAfter
  else if u.boundarySeen && u.travel - x.torchDistance - u.lastBoundary < x.minBilletLength then some .shortBillet
  else if u.pendingBoundary.isSome then some .pending
  else none

/-- A rejected cut (R57). -/
def StrandUnit.cutRejected (r : Reject) (u : StrandUnit) : StrandUnit :=
  { u with rejectedCuts := bump u.rejectedCuts, lastReject := r }

/-- An accepted cut at boundary b (R58). -/
def StrandUnit.cutAccepted (b : Nat) (u : StrandUnit) : StrandUnit :=
  { u with
    lastBoundary := b, boundarySeen := true, pendingBoundary := some b, acceptedCuts := bump u.acceptedCuts }

/-- A cut event (R57, R58): an accepted one puts its boundary marker into the Line Result Queue. Either marks the strand's
block. -/
def State.cutEvent (s : State) (k : Fin 4) : State :=
  let u := s.unit k
  let x := s.settings k
  match u.rejectCut x with
  | some r => ((s.setUnit k (u.cutRejected r)).raise .cutReject).markStrand k
  | none =>
    let b := u.travel - x.torchDistance
    ({ s with lineQueue := s.lineQueue ++ [QueueEntry.boundary k b] }.setUnit k (u.cutAccepted b)).markStrand k

/-- A rising edge of CUT_s (R55): it makes a cut event when CutSource is LINE or BOTH. -/
def State.cutLine (s : State) (k : Fin 4) : State :=
  let c := (s.settings k).cutSource
  if c = 1 ∨ c = 3 then s.cutEvent k else s

/-! ### Encoder pulses (R51, R52, R56) -/

/-- Travel advanced by one accepted pulse (R52). -/
def StrandUnit.advance (x : StrandSettings) (u : StrandUnit) : StrandUnit :=
  let sum := u.fraction + x.incFrac
  let next := u.travel + x.incInt + sum / 65536
  if Config.travelTop < next then { u with travel := Config.travelTop, fraction := 65535 }
  else { u with travel := next, fraction := sum % 65536 }

/-- Steps 1 to 4 of an accepted pulse at time t (R51). -/
def StrandUnit.pulseAccepted (x : StrandSettings) (t : Nat) (u : StrandUnit) : StrandUnit :=
  { u.advance x with lastPulse := some t, holdTimer := some (t + milliseconds x.holdTime), state := .casting }

/-- The comparator point after it has been met (R56). -/
def nextPoint (period point : Nat) : Option Nat :=
  if period = 0 then none else if Config.travelTop < point + period then none else some (point + period)

/-- Step 5 of an accepted pulse: the comparator is tested (R56). -/
def State.testComparator (s : State) (k : Fin 4) : State :=
  match (s.unit k).comparator with
  | none => s
  | some p =>
    if p ≤ (s.unit k).travel then
      let s1 := s.cutEvent k
      s1.setUnit k { s1.unit k with comparator := nextPoint (s.settings k).cutPeriod p }
    else s

/-- A pulse at time t comes too soon after the last accepted one (R51). -/
def StrandUnit.tooSoon (x : StrandSettings) (t : Nat) (u : StrandUnit) : Bool :=
  u.lastPulse.any fun p => t - p < x.minPulseInterval

/-- An encoder pulse at the time base's reading (R51). -/
def State.encoderPulse (s : State) (k : Fin 4) : State :=
  let u := s.unit k
  let x := s.settings k
  if !u.moving then s
  else if u.tooSoon x s.timeBase then (s.setUnit k { u with glitches := bump u.glitches }).raise .glitch
  else (s.setUnit k (u.pulseAccepted x s.timeBase)).testComparator k

/-! ### The hold timer (R53) -/

/-- What the expiry of the hold timer changes in the unit. -/
def StrandUnit.becomeHeld (u : StrandUnit) : StrandUnit :=
  { u with state := .held, holdTimer := none, heldCount := bump u.heldCount }

/-- The hold timer expires (R53). It runs in CASTING only. -/
def State.holdExpiry (s : State) (k : Fin 4) : State :=
  let u := s.unit k
  match u.holdTimer with
  | some d =>
    if u.state = .casting then
      ((((s.atTime d).setUnit k u.becomeHeld).setPredictor k (s.predictor k).halt).raise .held).markStrand k
    else s
  | none => s

/-! ### The oscillation input (R116) -/

/-- A rising edge of OSC_s: the predictor reads the travel and the strand state (R54, R116). -/
def State.oscillation (s : State) (k : Fin 4) : State :=
  let u := s.unit k
  s.changePredictor k ((s.predictor k).pulse (s.settings k) u.state u.travel u.fraction)

/-! ### The view level and the VIEW flag (R61, R62) -/

/-- The time in microseconds for which the sampled input must hold a level before the view level takes it (R61). -/
def debounceTime : Nat := 1000

/-- The view level becomes ACTIVE (R61). -/
def State.viewBlocks (s : State) (k : Fin 4) : State :=
  let u := s.unit k
  (((s.setUnit k
    { u with
      viewActive := true, viewSettled := s.timeBase, viewFlag := .set, viewBlocked := bump u.viewBlocked }).raise
    .view).markStrand k).onFaces k State.suspendForView

/-- The view level becomes INACTIVE (R61). -/
def State.viewClears (s : State) (k : Fin 4) : State :=
  let u := s.unit k
  ((s.setUnit k
    { u with
      viewActive := false, viewSettled := s.timeBase
      viewFlag := if u.viewFlag = .acked then .clear else u.viewFlag }).markStrand k).onFaces k State.resumeForView

/-- The view level takes the level given; a level already held is no change. -/
def State.viewChange (s : State) (k : Fin 4) (level : ViewLevel) : State :=
  match level, (s.unit k).viewActive with
  | .active, false => s.viewBlocks k
  | .inactive, true => s.viewClears k
  | .active, true => s
  | .inactive, false => s

/-- The debounce of VIEWBLK_s (R61): the view level takes the level held 1 ms after the sampled input came to it, counted from
the last change of the view level or from the reset release at the earliest; one held for less leaves everything as it was but
the time (log 5). -/
def State.viewEdge (s : State) (k : Fin 4) (x : HeldLevel) : State :=
  let due := max x.since (s.unit k).viewSettled + debounceTime
  if x.upTo < due then s.atTime x.upTo else (s.atTime due).viewChange k x.level

/-- The VIEW flag of a strand that ACK VIEW names (R62). -/
def StrandUnit.ackView (u : StrandUnit) : StrandUnit :=
  { u with viewFlag :=
      match u.viewFlag, u.viewActive with
      | .set, false => .clear
      | .set, true => .acked
      | .acked, _ => .acked
      | .clear, _ => .clear }

/-- ACK VIEW performed (R62); the bits beyond strand 3 are ignored. -/
def State.ackView (s : State) (mask : Byte) : State :=
  { s with strands := vtab fun k =>
      if mask.getLsbD k.val then { s.strand k with unit := (s.unit k).ackView } else s.strand k }

/-! ### STRAND START and STRAND STOP (R48, R49) -/

/-- The faces of a strand whose Window Table entry is enabled (R48). -/
def State.enabledFaces (s : State) (k : Fin 4) : BitVec 4 :=
  (List.finRange 4).foldl (fun m f => if (s.feeding (faceOf k f)).isSome then m ||| faceMask f else m) 0

/-- The Strand Travel Unit at STRAND START (R48): the view level with its debounce, and the VIEW flag, are kept, nothing else. -/
def StrandUnit.start (x : StrandSettings) (now : Nat) (watched : BitVec 4) (u : StrandUnit) : StrandUnit :=
  { StrandUnit.reset with
    state := .casting
    holdTimer := some (now + milliseconds x.holdTime)
    comparator := if x.cutSource = 2 ∨ x.cutSource = 3 then some x.cutAt else none
    billetNumber := BitVec.ofNat 32 x.startBillet
    viewActive := u.viewActive
    viewSettled := u.viewSettled
    viewFlag := u.viewFlag
    watched := watched
    gaps := if watched = 0 then [] else [{ mask := watched, start := 0, upTo := none }] }

/-- The Billet Unit's record at STRAND START (R136, R140, R149). -/
def Billet.start (b : Billet) : Billet :=
  { b with
    headBoundary := 0, firstPending := true, working := .cleared, tally := .zero, findings := 0, listed := 0,
    unlisted := 0, alerts := 0, publishedCount := 0, unpublishedCount := 0, discardedHolds := 0, billetsClosed := 0 }

/-- The Surface Model of a face is told of STRAND START (R69). -/
def State.startModel (s : State) (k : Fin 16) : State := s.setModel k (s.face k).model.atStart

/-- STRAND START performed (R48, R69, R115, R140, R149). -/
def State.startStrand (s : State) (k : Fin 4) : State :=
  let x := s.settings k
  let a := s.strand k
  ((s.setStrand k
    { unit := a.unit.start x s.timeBase (s.enabledFaces k)
      predictor := a.predictor.start x.nominalPitch
      billet := a.billet.start }).markStrand k).onFaces k State.startModel

/-- The strand's marker place holds its boundary marker (R60). -/
def holdsBoundary (k : Fin 4) (l : List QueueEntry) : Bool :=
  l.any fun e => match e with
    | .boundary j _ => j == k
    | .result _ | .stop _ _ => false

/-- The Strand Travel Unit at STRAND STOP (R49). -/
def StrandUnit.stop (phase : StopPhase) (u : StrandUnit) : StrandUnit :=
  { u with
    state := .stopping, holdTimer := none, comparator := none, gaps := closeAllGaps u.travel u.gaps,
    stopMarker := some (phase, u.travel) }

/-- STRAND STOP performed (R49): the stop marker is queued, or owed behind the strand's boundary marker (R60). -/
def State.stopStrand (s : State) (k : Fin 4) : State :=
  let u := s.unit k
  if holdsBoundary k s.lineQueue then (s.setUnit k (u.stop .owed)).markStrand k
  else ({ s with lineQueue := s.lineQueue ++ [QueueEntry.stop k u.travel] }.setUnit k (u.stop .queued)).markStrand k

/-! ### The alert timer and the status period timer (R132, R181) -/

/-- The alert timer of a strand expires (R132). -/
def State.alertExpiry (s : State) (k : Fin 4) : State :=
  let b := s.billet k
  match b.alertTimer with
  | some d => ((s.atTime d).setBillet k { b with alert := false, alertTimer := none }).markStrand k
  | none => s

/-- The status period timer expires and restarts (R181). -/
def State.periodExpiry (s : State) : State :=
  match s.statusTimer with
  | some d =>
    let s1 := (s.atTime d).mapMarks BlockMarks.atPeriod
    { s1 with statusTimer := some (s1.timeBase + milliseconds s1.globals.statusPeriod) }
  | none => s

end Sys2Proof.Machine
end

