-- ==== Sys2Proof/Machine/Status.lean ====
section
/-!
DEFINITION. The Status Writer (R179 to R181): which changes mark a block, and the issue of block writes. Every event ends
here: the blocks whose published fields the event changed are marked, beside those that its rules mark by name, then the
writes that can be issued are (log 12).
-/
namespace Sys2Proof.Machine

/-! ### Published fields (10.8) -/

/-- The published fields of a strand that are not travel-like: the fields that its block does not show are blanked. -/
def Strand.published (x : Strand) : StrandUnit × Predictor × Billet × Nat × Option Nat :=
  ({ x.unit with
      travel := 0, fraction := 0, lastPulse := none, holdTimer := none, comparator := none, viewSettled := 0 },
    x.predictor.published,
    { x.billet with
      firstPending := false, inHand := none, finalWaiting := none, working := .cleared, halvesQueued := 0,
      halvesAnswered := 0, tally := { x.billet.tally with classes := .zero }, holdList := [], alertTimer := none },
    x.billet.holdList.length, x.billet.frontTravel)

/-- The travel-like fields of a strand (R179). -/
def Strand.travelLike (x : Strand) : Nat × Nat × Nat := (x.unit.travel, x.unit.fraction, x.predictor.pitch)

/-- The published fields of a face channel that are not travel-like, apart from the last completed line. -/
def Face.published (x : Face) :
    Head × CaptureCounts × (ModelState × Bool × Bool × Nat) × ModelCounts × TrackCounts :=
  (x.head, x.capture, (x.model.state, x.model.forView, x.model.forHead, x.model.warmUp), x.counts, x.tracks)

/-- The published fields of block 0. -/
def State.globalPublished (s : State) : PartState × BitVec 14 × BitVec 16 × Reason × Addr :=
  (s.part, s.causes.pending, s.causeMask, s.path.refusalReason, s.path.refusalAddr)

/-- The published fields of block 1. -/
def State.partPublished (s : State) : List Nat × List (Nat × Nat) × Vector Nat 8 :=
  let r := s.ring
  let e := s.evidence
  ([r.publishedPut, s.getIndex, s.heldEntries, s.freeTiles, s.readyTiles, r.written, r.full, r.noHit, e.requests,
      e.evidenceOff, e.assigned, e.busy, e.noTile, e.preEmptions, e.complete, e.clipped, e.overrun, e.aborted, e.released,
      e.readErrors],
    (List.finRange 4).map fun i => ((s.slot i).state.code, if (s.slot i).state = .idle then 0 else (s.slot i).tile.val),
    r.hits)

/-- A published field of a block other than a travel-like one has changed (R179). -/
def blockChanged (old new : State) (b : Fin 22) : Bool :=
  if b.val = 0 then old.globalPublished != new.globalPublished
  else if b.val = 1 then old.partPublished != new.partPublished
  else if h : b.val < 6 then
    let k : Fin 4 := ⟨b.val - 2, by omega⟩
    (old.strand k).published != (new.strand k).published
  else
    let k : Fin 16 := ⟨b.val - 6, by omega⟩
    (old.face k).published != (new.face k).published || old.lastCompletedOf k != new.lastCompletedOf k

/-- A travel-like field of a block has changed. -/
def travelChanged (old new : State) (b : Fin 22) : Bool :=
  if b.val < 2 then false
  else if h : b.val < 6 then
    let k : Fin 4 := ⟨b.val - 2, by omega⟩
    (old.strand k).travelLike != (new.strand k).travelLike
  else
    let k : Fin 16 := ⟨b.val - 6, by omega⟩
    (old.face k).model.lastStamp != (new.face k).model.lastStamp

/-- The marks that an event's changes set (R179). -/
def State.markChanges (new old : State) : State :=
  { new with marks := vtab fun b =>
      { new.mark b with
        dirty := (new.mark b).dirty || blockChanged old new b
        periodic := (new.mark b).periodic || travelChanged old new b } }

/-! ### Issue (R180) -/

/-- The address of a status block (R179). -/
def State.blockAddress (s : State) (b : Fin 22) : Nat := s.ctlBase + 0x4000 + b.val * 64

/-- The write of a block is issued (R180); block 0's contents carry the causes pending (R183). -/
def State.issueBlock (s : State) (b : Fin 22) : State :=
  let m := (s.mark b).atIssue
  let s1 := (s.setMark b m).pushOwn
    { tag := .statusBlock b, addr := BitVec.ofNat 40 (s.blockAddress b), count := 64,
      data := statusBytes s b m.sequence }
  if b = 0 then { s1 with causes := { s1.causes with carried := s1.causes.pending } } else s1

/-- Blocks that qualify are issued lowest first while places remain; with one left over the writer waits as one unit. -/
def State.issueBlocks : List (Fin 22) → State → State
  | [], s => s.endWait .statusWriter
  | b :: rest, s =>
    if (s.mark b).qualifies then
      if s.placeFree then State.issueBlocks rest (s.issueBlock b) else s.beginWait .statusWriter
    else State.issueBlocks rest s

/-- A place is given to the Status Writer: the lowest-numbered block that qualifies goes (R180). -/
def State.statusGiven (s : State) : State :=
  match (List.finRange 22).find? fun b => (s.mark b).qualifies with
  | some b => s.issueBlock b
  | none => s

/-! ### An event -/

/-- The event begins: its number is taken, and the outputs of the event before are gone (log 19). -/
def State.opened (s : State) : State :=
  { s with path := { s.path with returned := [], mport := none }, eventNumber := s.eventNumber + 1 }

/-- The event ends: its changes mark blocks, and the Status Writer issues what it can. -/
def State.settled (new old : State) : State := State.issueBlocks (List.finRange 22) (new.markChanges old)

/-- One event of the part: what it changes is `f`. While RESET_N is low nothing happens (R19; log 20). -/
def State.event (s : State) (f : State → State) : State :=
  if s.resetLow then s else (f s.opened).settled s.opened

end Sys2Proof.Machine
end

