-- ==== Sys2Proof/Machine/Control.lean ====
section
/-!
DEFINITION. Control Page writes (R10, R170 to R178): the checks at arrival with their reasons in the order of R175, the
merge at the OKAY response with its effects, and the action words. A write is held as the list of the bytes it covers, each
with its offset in the Control Page.
-/
namespace Sys2Proof.Machine

/-! ### The bytes a write covers (R174) -/

/-- The covered bytes of a write, in ascending order of offset: those whose strobes are set. -/
def coveredCells : Nat → List Byte → List Bool → List Host.Cell
  | off, b :: data, t :: strobes =>
    if t then (off, b) :: coveredCells (off + 1) data strobes else coveredCells (off + 1) data strobes
  | _, [], _ => []
  | _, _ :: _, [] => []

/-- A write covers a byte of the n bytes from an offset. -/
def covers (cells : List Host.Cell) (off n : Nat) : Bool := cells.any fun c => off ≤ c.1 && c.1 < off + n

/-- The value a write gives a byte, where it covers it. -/
def byteGiven (cells : List Host.Cell) (off : Nat) : Option Byte := (cells.find? fun c => c.1 == off).map (·.2)

/-- A write gives an Enable byte a value from 2 to 255. -/
def badEnable (cells : List Host.Cell) (off : Nat) : Bool := (byteGiven cells off).any fun b => 2 ≤ b.toNat

/-- The shadow with a write's bytes merged (R174); the action words hold no shadow value (R177). -/
def merged (m : List Host.Cell) (cells : List Host.Cell) : List Host.Cell :=
  Memory.writeAll m (cells.filter fun c => shadowed c.1)

/-- The first reason of two. -/
def firstReason (a b : Option Reason) : Option Reason :=
  match a with
  | some r => some r
  | none => b

/-- A reason when a condition holds. -/
def failIf (b : Bool) (r : Reason) : Option Reason := if b then some r else none

/-- The first reason that a list of like areas gives, in its order. -/
def firstOf {α : Type} (f : α → Option Reason) : List α → Option Reason
  | [] => none
  | a :: rest => firstReason (f a) (firstOf f rest)

/-! ### Window checks (R24, R25, R26) -/

/-- The MiB at CTLBASE overlaps a range. -/
def State.overlapsPart (s : State) (base size : Nat) : Bool := overlaps base size s.ctlBase (2 ^ 20)

/-- The evidence pool overlaps a range. -/
def Globals.overlapsPool (g : Globals) (base size : Nat) : Bool := overlaps base size g.evidenceBase g.poolSize

/-- The pool overlaps a window's range, or its remap range when it remaps (R25; log 34). -/
def Globals.meetsWindow (g : Globals) (x : Window) : Bool :=
  g.overlapsPool x.base x.size || (x.remap == 1 && g.overlapsPool x.remapBase x.size)

/-- An entry is enabled, or the write enables it (R24, R25; log 34). -/
def enabledEither (m m' : List Host.Cell) (w : Fin 16) : Bool := Machine.windowEnabled m w || Machine.windowEnabled m' w

/-- Checks 5 and 6 of R24 against one other entry. -/
def clashes (m' : List Host.Cell) (w v : Fin 16) : Bool :=
  let x := Machine.window m' w
  let y := Machine.window m' v
  x.faceChannel == y.faceChannel || overlaps x.base x.size y.base y.size

/-- The enable checks of an entry hold (R24), with the shadow as it is and as the write would leave it. -/
def State.enableChecks (s : State) (m' : List Host.Cell) (w : Fin 16) : Bool :=
  let x := Machine.window m' w
  let g := Machine.globals m'
  x.fieldsOk && 2 * g.guardLines < x.ringLines &&
  ((List.finRange 16).all fun v => v == w || !enabledEither s.shadow m' v || !clashes m' w v) &&
  !s.overlapsPart x.base x.size && !g.overlapsPool x.base x.size &&
  !(x.remap == 1 && (s.overlapsPart x.remapBase x.size || g.overlapsPool x.remapBase x.size))

/-- The check of one Window Table entry (R24, R26). -/
def State.checkWindow (s : State) (cells : List Host.Cell) (w : Fin 16) : Option Reason :=
  let a := windowAt w
  let m' := merged s.shadow cells
  if !covers cells a 0x40 then none
  else firstReason (failIf (s.windowEnabled w && covers cells (a + 1) 0x3F) .entryLocked)
    (firstReason (failIf (badEnable cells a) .checkFailed)
      (failIf (!s.windowEnabled w && Machine.windowEnabled m' w && !s.enableChecks m' w) .checkFailed))

/-! ### Global Settings (R25, R170, R171, R173) -/

/-- Every strand and every copy slot is IDLE (R173). -/
def State.quiet (s : State) : Bool :=
  ((List.finRange 4).all fun k => (s.unit k).state == .idle) && (List.finRange 4).all fun i => (s.slot i).state == .idle

/-- R25's checks of the settings that a write in PASS would leave, whatever Global Enable it leaves: against every entry enabled
before the write or by it. -/
def crossChecks (m m' : List Host.Cell) : Bool :=
  let g := Machine.globals m'
  (List.finRange 16).all fun w =>
    !enabledEither m m' w || (!g.meetsWindow (Machine.window m' w) && 2 * g.guardLines < (Machine.window m' w).ringLines)

/-- R171's checks of the settings that a write would leave with Global Enable 1. -/
def State.globalChecks (s : State) (m' : List Host.Cell) : Bool :=
  let g := Machine.globals m'
  g.evidenceEnable ≤ 1 && g.tileSizeLog ≤ 4 && g.tileCount ≤ 64 && (g.evidenceEnable == 0 || 1 ≤ g.tileCount) &&
  g.evidenceBase % 2 ^ 20 == 0 && g.evidenceBase + g.poolSize ≤ 2 ^ 40 && !s.overlapsPart g.evidenceBase g.poolSize &&
  inRange 8 2048 g.guardLines &&
  ((List.finRange 16).all fun w =>
    !Machine.windowEnabled m' w || (!g.meetsWindow (Machine.window m' w) && 2 * g.guardLines < (Machine.window m' w).ringLines)) &&
  g.marginLines ≤ 15 && g.marginCells ≤ 15 && inRange 1 1000 g.holdLimit && inRange 1 1000 g.statusPeriod &&
  Machine.getIndex m' == 0

/-- The check of the Global Settings entry (R25, R170, R171, R173): in PASS the cross-checks of R25, and beside them R171's where
the write would leave Global Enable 1 (log 34). -/
def State.checkGlobal (s : State) (cells : List Host.Cell) : Option Reason :=
  let m' := merged s.shadow cells
  let on := (Machine.globals m').enable == 1
  let off := byteGiven cells 0 == some 0
  if !covers cells 0 0x100 then none
  else firstReason (failIf (s.globals.enable == 1 && covers cells 1 0xFF) .entryLocked)
    (firstReason (failIf (badEnable cells 0) .checkFailed)
      (match s.part with
      | .pass => failIf (!crossChecks s.shadow m' || (on && !s.globalChecks m')) .checkFailed
      | .starting => failIf off .stateForbids
      | .run => failIf (off && !s.quiet) .stateForbids))

/-! ### The unlocked words (R176) -/

/-- The get index g would pass the put index, or go back over consumed records (R176). -/
def State.getOutOfRange (s : State) (g : Nat) : Bool :=
  (s.ring.put + 1024 - s.getIndex) % 1024 < (s.ring.put + 1024 - g) % 1024

/-- The check of the unlocked words (R176). -/
def State.checkUnlocked (s : State) (cells : List Host.Cell) : Option Reason :=
  let g := Machine.getIndex (merged s.shadow cells)
  if !covers cells unlockedAt 0x10 then none
  else firstReason (failIf (1023 < g) .checkFailed) (failIf (s.part != .pass && s.getOutOfRange g) .getRange)

/-! ### Face Settings, Strand Settings and the Filter Table (R46, R68, R128) -/

def State.checkFace (s : State) (cells : List Host.Cell) (k : Fin 16) : Option Reason :=
  failIf (covers cells (faceAt k) 0x40 && (s.feeding k).isSome) .entryLocked

def State.checkStrand (s : State) (cells : List Host.Cell) (k : Fin 4) : Option Reason :=
  failIf (covers cells (strandAt k) 0x80 && (s.unit k).state != .idle) .entryLocked

def State.checkFilter (s : State) (cells : List Host.Cell) (i : Fin 8) : Option Reason :=
  let a := filterAt i
  let m' := merged s.shadow cells
  if !covers cells a 0x10 then none
  else firstReason (failIf (filterEnabled s.shadow i && covers cells (a + 1) 0xF) .entryLocked)
    (firstReason (failIf (badEnable cells a) .checkFailed)
      (failIf (!filterEnabled s.shadow i && filterEnabled m' i && 2 < (filterEntry m' i).action) .checkFailed))

/-! ### The merge and its effects -/

/-- The entry to STARTING (R172). -/
def Strand.atStarting (x : Strand) : Strand :=
  { x with billet := { x.billet with close := .idle, inHand := none, finalWaiting := none } }

/-- Global Enable becomes 1 (R172): every block is marked, the period timer starts, the ring and the tiles are emptied and
the zero records begin. -/
def State.enterStarting (s : State) : State :=
  let s1 := s.mapMarks BlockMarks.atStarting
  State.queueZeros 16 false
    { s1 with
      part := .starting
      statusTimer := some (s.timeBase + milliseconds s.globals.statusPeriod)
      ring := { s1.ring with put := 0, writesPending := 0 }
      evidence := { s1.evidence with tiles := Vector.replicate 64 .free }
      strands := vtab fun k => (s1.strand k).atStarting
      zeroToQueue := 16
      zeroUnanswered := 16 }

/-- Global Enable becomes 0 (R173). -/
def State.enterPass (s : State) : State :=
  { s.abandonLines with part := .pass, statusTimer := none }.markDirty 0

/-- The part becomes RUN once every first-write mark is clear and the STARTING writes are answered (R172). -/
def State.checkRun (s : State) : State :=
  if s.part = .starting ∧ s.zeroUnanswered = 0 ∧ ((List.finRange 22).all fun b => !(s.mark b).firstWrite) = true then
    { s with part := .run }.markDirty 0
  else s

/-- A shadow taken, with the mark of block 0 for a change of the cause-enable mask (R176; log 13). -/
def State.takeShadow (s : State) (m' : List Host.Cell) : State :=
  let s1 := { s with shadow := m' }
  if s1.causeMask = s.causeMask then s1 else s1.markDirty 0

/-- The effect of the Global Enable byte on the part state (R169). -/
def State.globalEffect (s : State) (before : List Host.Cell) : State :=
  if s.part = .pass ∧ s.globals.enable = 1 then s.enterStarting
  else if s.part = .run ∧ (Machine.globals before).enable = 1 ∧ s.globals.enable = 0 then s.enterPass
  else s

/-- A filter entry becomes enabled: its hit count is zeroed (R149). -/
def State.enableFilter (s : State) (i : Fin 8) : State := { s with ring := { s.ring with hits := vset s.ring.hits i 0 } }

/-- A change made for each thing of a list that a test names. -/
def State.forEach {α : Type} (test : α → Bool) (f : State → α → State) : List α → State → State
  | [], s => s
  | a :: rest, s => State.forEach test f rest (if test a then f s a else s)

/-- Every covered byte is merged into the shadow and takes its effect (R174), in the order: window disables, the shadow,
Global Enable, window enables, filter enables (log 17); of several entries of one kind the lowest-numbered first, so that the
findings of the windows disabled by one write are handled in ascending entry number (log 37). -/
def State.mergeControl (s : State) (cells : List Host.Cell) : State :=
  let m := s.shadow
  let m' := merged m cells
  let s1 := State.forEach (fun w => Machine.windowEnabled m w && !Machine.windowEnabled m' w) State.disableWindow (List.finRange 16) s
  let s2 := (s1.takeShadow m').globalEffect m
  let s3 := State.forEach (fun w => !Machine.windowEnabled m w && Machine.windowEnabled m' w) State.enableWindow (List.finRange 16) s2
  State.forEach (fun i => !filterEnabled m i && filterEnabled m' i) State.enableFilter (List.finRange 8) s3

/-! ### Action words (R177, R178) -/

/-- The actions, each with the argument its word carries. -/
inductive ControlAction where
  | strandStart (arg : Byte)
  | strandStop (arg : Byte)
  | cutNow (arg : Byte)
  | headRestart (arg : Byte)
  | releaseTiles (mask : BitVec 64)
  | ackCauses (mask : BitVec 16)
  | ackView (mask : Byte)
  deriving DecidableEq, Repr

/-- The strand an argument names; none above 3. -/
def strandArg (b : Byte) : Option (Fin 4) := if h : b.toNat < 4 then some ⟨b.toNat, h⟩ else none

/-- The face channel an argument names; none above 15. -/
def channelArg (b : Byte) : Option (Fin 16) := if h : b.toNat < 16 then some ⟨b.toNat, h⟩ else none

/-- STRAND START is decided (R47). -/
def State.checkStart (s : State) (arg : Byte) : Option Reason :=
  match strandArg arg with
  | none => some .checkFailed
  | some k =>
    firstReason (failIf (s.part != .run || (s.unit k).state != .idle) .stateForbids)
      (failIf (!(s.settings k).ok) .checkFailed)

/-- STRAND STOP and CUT NOW are decided alike (R47). -/
def State.checkMoving (s : State) (arg : Byte) : Option Reason :=
  match strandArg arg with
  | none => some .checkFailed
  | some k => failIf (!(s.unit k).moving) .stateForbids

/-- HEAD RESTART is decided (R41). -/
def State.checkRestart (s : State) (arg : Byte) : Option Reason :=
  match channelArg arg with
  | none => some .checkFailed
  | some k => failIf ((s.face k).head.state != .off) .stateForbids

/-- An action is decided by the state it finds (R177). -/
def State.checkAction (s : State) : ControlAction → Option Reason
  | .strandStart arg => s.checkStart arg
  | .strandStop arg => s.checkMoving arg
  | .cutNow arg => s.checkMoving arg
  | .headRestart arg => s.checkRestart arg
  | .releaseTiles _ => none
  | .ackCauses _ => none
  | .ackView _ => none

/-- A change made for the strand that an argument names. -/
def State.onStrandArg (s : State) (arg : Byte) (f : State → Fin 4 → State) : State :=
  match strandArg arg with
  | none => s
  | some k => f s k

/-- A change made for the face channel that an argument names. -/
def State.onChannelArg (s : State) (arg : Byte) (f : State → Fin 16 → State) : State :=
  match channelArg arg with
  | none => s
  | some k => f s k

/-- An action is performed (R177). -/
def State.performAction (s : State) : ControlAction → State
  | .strandStart arg => s.onStrandArg arg State.startStrand
  | .strandStop arg => s.onStrandArg arg State.stopStrand
  | .cutNow arg => s.onStrandArg arg State.cutEvent
  | .headRestart arg => s.onChannelArg arg State.restartHead
  | .releaseTiles mask => s.releaseTiles mask
  | .ackCauses mask => s.acknowledge mask
  | .ackView mask => s.ackView mask

/-- How a write covers an action word (R177). -/
inductive WordCover where
  | untouched
  | inPart
  | whole (a : ControlAction)
  deriving DecidableEq, Repr

/-- The action of word n with its 8 bytes (R185). -/
def actionWord (n : Fin 7) (bytes : List Byte) : ControlAction :=
  let first := bytes.headD 0
  if n.val = 0 then .strandStart first
  else if n.val = 1 then .strandStop first
  else if n.val = 2 then .cutNow first
  else if n.val = 3 then .headRestart first
  else if n.val = 4 then .releaseTiles (BitVec.ofNat 64 (leNat bytes))
  else if n.val = 5 then .ackCauses (BitVec.ofNat 16 (leNat (bytes.take 2)))
  else .ackView first

/-- How a write covers word n. -/
def wordCover (cells : List Host.Cell) (n : Fin 7) : WordCover :=
  let inWord := cells.filter fun c => actionAt n.val ≤ c.1 && c.1 < actionAt n.val + 8
  if inWord.isEmpty then .untouched
  else if inWord.length = 8 then .whole (actionWord n (inWord.map (·.2)))
  else .inPart

/-- The words covered are decided in ascending order of offset, each against the state that the ones before it would leave
(R174, R175; log 18). The unused word is not among them. -/
def State.checkActions (cells : List Host.Cell) : List (Fin 7) → State → Option Reason
  | [], _ => none
  | n :: rest, s =>
    match wordCover cells n with
    | .untouched => State.checkActions cells rest s
    | .inPart => some .checkFailed
    | .whole a => firstReason (s.checkAction a) (State.checkActions cells rest (s.performAction a))

/-- The actions are performed in ascending order of offset (R177). -/
def State.performActions (cells : List Host.Cell) : List (Fin 7) → State → State
  | [], s => s
  | n :: rest, s =>
    match wordCover cells n with
    | .untouched => State.performActions cells rest s
    | .inPart => State.performActions cells rest s
    | .whole a => State.performActions cells rest (s.performAction a)

/-! ### A whole write -/

/-- A write covers a byte of an action word. -/
def coversActions (cells : List Host.Cell) : Bool := covers cells (actionAt 0) 56

/-- The checks of a Control Page write at its arrival: the first area in ascending order of offset that fails gives the
reason (R174, R175). -/
def State.checkControl (s : State) (cells : List Host.Cell) : Option Reason :=
  firstReason (s.checkGlobal cells)
    (firstReason (s.checkUnlocked cells)
      (firstReason
        (if coversActions cells then State.checkActions cells (List.finRange 7) (s.mergeControl cells) else none)
        (firstReason (firstOf (s.checkWindow cells) (List.finRange 16))
          (firstReason (firstOf (s.checkFace cells) (List.finRange 16))
            (firstReason (firstOf (s.checkStrand cells) (List.finRange 4))
              (firstOf (s.checkFilter cells) (List.finRange 8)))))))

/-- A Control Page write takes effect at its OKAY response (R174, R177). -/
def State.applyControl (s : State) (cells : List Host.Cell) : State :=
  State.performActions cells (List.finRange 7) (s.mergeControl cells)

/-- A refusal (R6): the last-refusal record, cause REFUSED and the mark of block 0. -/
def State.refuse (s : State) (r : Reason) (addr : Addr) : State :=
  ({ s with path := { s.path with refusalReason := r, refusalAddr := addr } }.raise .refused).markDirty 0

/-- The address of an offset of the Control Page. -/
def State.pageAddress (s : State) (offset : Nat) : Addr := BitVec.ofNat 40 (s.ctlBase + offset)

/-- A Control Page write as one command (log 7): taken only when none is in flight (R2), decided, and then refused, or
answered OKAY with the effect given. It takes no place of the path, so it is performed whether or not the Outstanding Table is
full, 16 writes are held or writes are presented ahead of it (log 7). -/
def State.control (s : State) (offset : Nat) (reason : Option Reason) (effect : State → State) : State :=
  if s.path.controlInFlight.isSome then s
  else
    match reason with
    | some r => s.refuse r (s.pageAddress offset)
    | none => effect s

end Sys2Proof.Machine
end

