-- ==== Sys2Proof/Machine/Path.lean ====
section
/-!
DEFINITION. The Path Unit and the Memory Arbiter (01_the_memory_path.md): taking, the arrival checks, the hold test, grants,
forwarded responses and the return of responses.
-/
namespace Sys2Proof.Machine

/-! ### Returning responses (R7) -/

/-- The records that stay and the responses that are returned: a record's response is returned when it is known and no
earlier record of its ID and kind stays. `blocked` names the IDs and kinds that stay; the list is in arrival order. -/
def returnPass : List (Dir × Id) → List Rec → List Rec × List Returned
  | _, [] => ([], [])
  | blocked, r :: rest =>
    match r.response with
    | none =>
      let p := returnPass ((r.dir, r.id) :: blocked) rest
      (r :: p.1, p.2)
    | some (resp, data) =>
      if blocked.contains (r.dir, r.id) then
        let p := returnPass blocked rest
        (r :: p.1, p.2)
      else
        let p := returnPass blocked rest
        (p.1, { dir := r.dir, id := r.id, resp := resp, data := data } :: p.2)

/-- Every response that can be returned is returned (R7), which frees its place in the table (R1). -/
def State.returnResponses (s : State) : State :=
  let p := returnPass [] s.path.table
  { s with path := { s.path with table := p.1, returned := s.path.returned ++ p.2 } }

/-! ### Regions (R3, R5) -/

/-- A range of addresses shares a byte with n bytes at an offset of the CTLBASE MiB. -/
def State.touches (s : State) (addr count off n : Nat) : Bool := overlaps addr count (s.ctlBase + off) n

/-- A transaction lies in the Control Page (R3). -/
def State.inControlPage (s : State) (addr : Addr) : Bool :=
  s.ctlBase ≤ addr.toNat && addr.toNat < s.ctlBase + 0x4000

/-- The range touches a region of R5. -/
def State.inPartRegion (s : State) (addr count : Nat) : Bool :=
  let g := s.globals
  s.touches addr count 0x4000 0x4000 ||
  ((List.finRange 8).any fun b => s.touches addr count (0x8000 + b.val * 0x100) 0x80) ||
  s.touches addr count 0x9000 0x400 || s.touches addr count 0x10000 0x10000 ||
  (g.evidenceEnable == 1 && overlaps addr count g.evidenceBase g.poolSize)

/-- The range touches the published-view area. -/
def State.inView (s : State) (addr count : Nat) : Bool := s.touches addr count 0x9000 0x400

/-- The address at which a windowed transaction is forwarded (R8). -/
def State.forwardedAddr (s : State) (w : Option (Fin 16)) (addr : Addr) : Addr :=
  match w with
  | none => addr
  | some v =>
    let x := s.window v
    if x.remap = 1 then BitVec.ofNat 40 (x.remapBase + (addr.toNat - x.base)) else addr

/-! ### The pieces of a read (R9) -/

/-- The bytes of a range that lie in a region, as a start and a count. -/
def common (addr count base n : Nat) : Nat × Nat :=
  let lo := max addr base
  (lo, min (addr + count) (base + n) - lo)

/-- The pieces of a view read, in ascending address order (R9). -/
def State.viewPieces (s : State) (addr count : Nat) : List Piece :=
  let view := s.ctlBase + 0x9000
  let strandPieces := (List.finRange 4).filterMap fun k =>
    let base := view + k.val * 0x100
    let p := common addr count base 0x100
    if p.2 = 0 then none else some { target := .view k (p.1 - base), count := p.2, answer := none : Piece }
  let p := common addr count (view + 0x400) 0x1000
  if p.2 = 0 then strandPieces
  else strandPieces ++ [{ target := .direct (BitVec.ofNat 40 p.1), count := p.2, answer := none }]

/-- The pieces of a read: split over the published views in STARTING and RUN, one piece otherwise (R8, R9). -/
def State.readPieces (s : State) (r : PresentedRead) : List Piece :=
  if s.part ≠ .pass ∧ s.inView r.addr.toNat r.count = true then s.viewPieces r.addr.toNat r.count
  else [{ target := .direct (s.forwardedAddr (s.lookup r.addr.toNat) r.addr), count := r.count, answer := none }]

/-! ### Arrivals (R1, R3, R6) -/

/-- A record joins the table at its arrival (R1). -/
def State.joinTable (s : State) (r : Rec) : State :=
  { s with path := { s.path with table := s.path.table ++ [r], nextSeq := s.path.nextSeq + 1 } }

/-- The pieces of a record join the forwarding queue together (R15). -/
def State.joinForwarding (s : State) (seq n : Nat) : State :=
  { s with path := { s.path with forwarding := s.path.forwarding ++ (List.range n).map fun i => (seq, i) } }

/-- A read's record as it joins. -/
def PresentedRead.toRec (r : PresentedRead) (seq : Nat) (d : Disposition) (pieces : List Piece) (w : Option (Fin 16))
    (response : Option (Resp × List Byte)) : Rec :=
  { seq := seq, dir := .read, id := r.id, addr := r.addr, count := r.count, data := [], strobes := [], disposition := d,
    pieces := pieces, window := w, face := none, captured := false, controlPage := false, response := response }

/-- A read taken at the S-port (R3, R4, R6, R9). -/
def State.arriveRead (s : State) (r : PresentedRead) : State :=
  let seq := s.path.nextSeq
  let w := s.lookup r.addr.toNat
  if r.id = s.ownId then
    (s.refuse .ownId r.addr).joinTable (r.toRec seq .refused [] w (some (.error, zeroBytes r.count)))
  else
    let pieces := s.readPieces r
    (s.joinTable (r.toRec seq .waiting pieces w none)).joinForwarding seq pieces.length

/-- The bytes a Control Page write covers, by its offset in the page (R174). -/
def State.writeCells (s : State) (addr : Addr) (data : List Byte) (strobes : List Bool) : List Host.Cell :=
  coveredCells (addr.toNat - s.ctlBase) data strobes

/-- Why a write is refused at its arrival, by the tests in their order (R3, R4, R5). -/
def State.writeRefusal (s : State) (x : PresentedWrite) : Option Reason :=
  if x.id = s.ownId then some .ownId
  else firstReason (if s.inControlPage x.addr then s.checkControl (s.writeCells x.addr x.data x.strobes) else none)
    (failIf (s.part == .run && s.inPartRegion x.addr.toNat x.data.length) .partRegion)

/-- A write of that window and ID is captured (R11, R29). -/
def State.captures (s : State) (w : Option (Fin 16)) (id : Id) : Bool :=
  s.part == .run && w.any fun v => (s.window v).idMatches id

/-- The offset of an address in its window, 0 where it lies in none. -/
def State.windowOffset (s : State) (w : Option (Fin 16)) (addr : Addr) : Nat :=
  match w with
  | none => 0
  | some v => addr.toNat - (s.window v).base

/-- A write's ID has no held write. -/
def State.listEmpty (s : State) (id : Id) : Bool := !(s.path.held.any fun h => h.id == id)

/-- The hold test (R12). -/
def State.holds (s : State) (id : Id) (w : Option (Fin 16)) (offset count : Nat) : Bool :=
  !s.listEmpty id || w.any fun v => s.protectedRange v offset count

/-- A write joins its ID's list, its hold timer started when it is the front (R12, R14). -/
def State.hold (s : State) (h : HeldWrite) : State :=
  let expiry := if s.listEmpty h.id then some (s.timeBase + s.globals.holdLimit) else none
  { s with path := { s.path with held := s.path.held ++ [{ h with expiry := expiry }] } }

/-- The bytes of a captured write reach the Line Assembler of its window (R11). Of several writes taken at one event each marks
the blocks whose published fields it changes (R179). -/
def State.passCapture (s : State) (w : Option (Fin 16)) (x : PresentedWrite) : State :=
  match w with
  | none => s
  | some v => (s.captureWrite v (s.windowOffset w x.addr) x.data x.strobes).markChanges s

/-- A write's record as it joins. -/
def PresentedWrite.toRec (x : PresentedWrite) (seq : Nat) (d : Disposition) (pieces : List Piece) (w : Option (Fin 16))
    (face : Option (Fin 16)) (controlPage : Bool) (response : Option (Resp × List Byte)) : Rec :=
  { seq := seq, dir := .write, id := x.id, addr := x.addr, count := x.data.length, data := x.data, strobes := x.strobes,
    disposition := d, pieces := pieces, window := w, face := face, captured := face.isSome, controlPage := controlPage,
    response := response }

/-- The in-flight place is taken by a Control Page write that passes its checks (R10). -/
def State.takeInFlight (s : State) (seq : Nat) (controlPage : Bool) : State :=
  if controlPage then { s with path := { s.path with controlInFlight := some seq } } else s

/-- A write that passed the refusal tests (R8, R10, R11, R12): captured, then held or sent to the forwarding queue. -/
def State.acceptWrite (s : State) (x : PresentedWrite) : State :=
  let seq := s.path.nextSeq
  let w := s.lookup x.addr.toNat
  let captured := s.captures w x.id
  let face := if captured then w.map fun v => (s.window v).channel else none
  let control := s.inControlPage x.addr
  let pieces : List Piece :=
    [{ target := .direct (s.forwardedAddr w x.addr), count := x.data.length, answer := none }]
  let offset := s.windowOffset w x.addr
  let s1 := (if captured then s.passCapture w x else s).takeInFlight seq control
  if s1.holds x.id w offset x.data.length then
    (s1.joinTable (x.toRec seq .deferred pieces w face control none)).hold
      { seq := seq, id := x.id, window := w, offset := offset, count := x.data.length, expiry := none }
  else (s1.joinTable (x.toRec seq .waiting pieces w face control none)).joinForwarding seq 1

/-- A write taken at the S-port (R3). -/
def State.arriveWrite (s : State) (x : PresentedWrite) : State :=
  match s.writeRefusal x with
  | some r =>
    (s.refuse r x.addr).joinTable
      (x.toRec s.path.nextSeq .refused [] (s.lookup x.addr.toNat) none false (some (.error, [])))
  | none => s.acceptWrite x

/-! ### Taking at the S-port (R2) -/

/-- The Outstanding Table has a free place. -/
def State.tableFree (s : State) : Bool := s.path.table.length < Config.tablePlaces

/-- The read presented first can be taken. -/
def State.readReady (s : State) : Bool := !s.path.presentedReads.isEmpty && s.tableFree

/-- The write presented first can be taken. -/
def State.writeReady (s : State) : Bool :=
  match s.path.presentedWrites with
  | [] => false
  | x :: _ =>
    s.tableFree && s.path.held.length < Config.heldPlaces &&
      (!s.inControlPage x.addr || s.path.controlInFlight.isNone)

/-- The read presented first is taken, and what can be returned is. -/
def State.takeRead (s : State) : State :=
  match s.path.presentedReads with
  | [] => s
  | r :: rest =>
    ({ s with path := { s.path with presentedReads := rest } }.arriveRead r).returnResponses

/-- The write presented first is taken, and what can be returned is. -/
def State.takeWrite (s : State) : State :=
  match s.path.presentedWrites with
  | [] => s
  | x :: rest =>
    ({ s with path := { s.path with presentedWrites := rest } }.arriveWrite x).returnResponses

/-- Transactions are taken while the path allows, the two directions in either order (R2, R15). -/
def State.takeReady : Nat → State → State
  | 0, s => s
  | fuel + 1, s =>
    if s.readReady && s.writeReady then
      let (i, s1) := s.choose 2
      State.takeReady fuel (if i = 0 then s1.takeRead else s1.takeWrite)
    else if s.readReady then State.takeReady fuel s.takeRead
    else if s.writeReady then State.takeReady fuel s.takeWrite
    else s

/-- Every presented transaction that can be taken is taken (R2). -/
def State.takePresented (s : State) : State :=
  State.takeReady (s.path.presentedReads.length + s.path.presentedWrites.length) s

/-- A read is presented behind those that wait (R2). -/
def State.presentRead (s : State) (r : PresentedRead) : State :=
  { s with path := { s.path with presentedReads := s.path.presentedReads ++ [r] } }.takePresented

/-- A write is presented behind those that wait (R2). -/
def State.presentWrite (s : State) (x : PresentedWrite) : State :=
  { s with path := { s.path with presentedWrites := s.path.presentedWrites ++ [x] } }.takePresented

/-! ### Grants (R17) -/

/-- The M-port address of a piece; a view piece reads the bank published now (R9). -/
def State.resolve (s : State) (t : PieceTarget) : Addr :=
  match t with
  | .direct a => a
  | .view k off => BitVec.ofNat 40 (s.bankBase k (s.billet k).published + off)

/-- The pieces of a record as the grant of its first piece fixes them (R9). -/
def State.fixPieces (s : State) (l : List Piece) : List Piece :=
  l.map fun p => { p with target := .direct (s.resolve p.target) }

/-- The record with a number. -/
def State.record (s : State) (seq : Nat) : Option Rec := s.path.table.find? fun r => r.seq == seq

/-- A piece goes out on the M-port with the transaction's own ID (R15). -/
def Rec.issue (r : Rec) (addr : Addr) (count : Nat) : Issued :=
  { dir := r.dir, id := r.id, addr := addr, count := count, data := r.data, strobes := r.strobes }

/-- The head of the forwarding queue is granted the M-port (R9, R15). -/
def State.grantForwarded (s : State) : State :=
  match s.path.forwarding with
  | [] => s
  | (seq, i) :: rest =>
    match s.record seq with
    | none => { s with path := { s.path with forwarding := rest } }
    | some r =>
      let pieces := if i = 0 then s.fixPieces r.pieces else r.pieces
      let last := i + 1 = r.pieces.length
      let s1 := s.modRec seq fun x =>
        { x with pieces := pieces, disposition := if last then .forwarded else x.disposition }
      { s1 with path :=
        { s1.path with
          forwarding := rest
          issued := s1.path.issued ++ [(seq, i)]
          mport := (pieces[i]?).map fun p => r.issue (s.resolve p.target) p.count } }

/-- An own transaction goes out on the M-port with ID OWNID (R16). -/
def State.ownIssue (s : State) (t : OwnTxn) : Issued :=
  if t.tag.isRead then { dir := .read, id := s.ownId, addr := t.addr, count := t.count, data := [], strobes := [] }
  else
    { dir := .write, id := s.ownId, addr := t.addr, count := t.count, data := t.data,
      strobes := List.replicate t.count true }

/-- The head of the Own Traffic Queue is granted the M-port (R16). -/
def State.grantOwn (s : State) : State :=
  match s.own.queue with
  | [] => s
  | t :: rest =>
    { s with
      own := { s.own with
        queue := rest
        reads := if t.tag.isRead then s.own.reads ++ [t] else s.own.reads
        writes := if t.tag.isRead then s.own.writes else s.own.writes ++ [t] }
      path := { s.path with mport := some (s.ownIssue t) } }

/-- The own-wait count set. -/
def State.setWaitCount (s : State) (n : Nat) : State := { s with own := { s.own with waitCount := n } }

/-- A grant (R17). -/
def State.arbitrate (s : State) : State :=
  if s.path.forwarding.isEmpty then
    if s.own.queue.isEmpty then s else s.grantOwn.setWaitCount 0
  else if s.own.queue.isEmpty then s.grantForwarded.setWaitCount 0
  else if s.own.waitCount < Config.ownWaitLimit then s.grantForwarded.setWaitCount (s.own.waitCount + 1)
  else s.grantOwn.setWaitCount 0

/-! ### Responses to forwarded pieces (R10, R15, R18) -/

/-- The issued piece that a response of a kind and ID answers: the first in forwarding order (R15). -/
def State.answered (s : State) (dir : Dir) (id : Id) : Option (Nat × Nat) :=
  s.path.issued.find? fun x => (s.record x.1).any fun r => r.dir == dir && r.id == id

/-- The response carries the data that the piece asked for: a read's byte count, none for a write. -/
def Rec.dataFits (r : Rec) (i : Nat) (data : List Byte) : Bool :=
  match r.dir with
  | .read => (r.pieces[i]?).any fun p => p.count == data.length
  | .write => data.isEmpty

/-- A record with one piece answered. -/
def Rec.answerPiece (i : Nat) (resp : Resp) (data : List Byte) (r : Rec) : Rec :=
  { r with pieces := r.pieces.zipIdx.map fun x => if x.2 = i then { x.1 with answer := some (resp, data) } else x.1 }

/-- The response of a record whose pieces are all answered (R18): ERROR when any piece is, the data joined. -/
def Rec.joined (r : Rec) : Option (Resp × List Byte) :=
  if r.pieces.all fun p => p.answer.isSome then
    some (if r.pieces.any fun p => p.answer.any fun a => a.1 == .error then .error else .okay,
      r.pieces.flatMap fun p => (p.answer.map (·.2)).getD [])
  else none

/-- A captured write answered ERROR is reported to its face's head (R11, R18, R38). -/
def State.reportCapture (s : State) (r : Rec) (resp : Resp) : State :=
  match resp, r.face with
  | .error, some k => s.captureError k
  | .error, none => s
  | .okay, _ => s

/-- The in-flight Control Page write is answered: its place is given up, and on OKAY it takes effect (R10). -/
def State.controlAnswered (s : State) (r : Rec) (resp : Resp) : State :=
  if r.controlPage then
    let s1 := { s with path := { s.path with controlInFlight := none } }
    match resp with
    | .okay => s1.applyControl (s1.writeCells r.addr r.data r.strobes)
    | .error => s1
  else s

/-- A record's response has become known (R18). -/
def State.responseKnown (s : State) (r : Rec) (answer : Resp × List Byte) : State :=
  let s1 := s.modRec r.seq fun x => { x with response := some answer }
  (s1.reportCapture r answer.1).controlAnswered r answer.1

/-- A response to a forwarded piece (R15). One that answers no piece, or does not fit it, is no event (log 6). Writes released
by a Control Page effect join the forwarding queue before the presented transactions that the event lets the part take (log 36). -/
def State.forwardedAnswer (s : State) (dir : Dir) (id : Id) (resp : Resp) (data : List Byte) : State :=
  match s.answered dir id with
  | none => s
  | some (seq, i) =>
    match s.record seq with
    | none => s
    | some r =>
      if r.dataFits i data then
        let r1 := r.answerPiece i resp data
        let s1 := { s with path := { s.path with issued := s.path.issued.filter fun x => x != (seq, i) } }.modRec seq
          fun _ => r1
        (match r1.joined with
          | none => s1
          | some a => s1.responseKnown r1 a).returnResponses.takePresented
      else s

/-! ### The hold limit (R14) -/

/-- The hold timer of an ID's front write expires (R14): OVERRUN aborts, then a release step. The writes released join the
forwarding queue before the presented transactions taken at the event (log 36). -/
def State.holdLimit (s : State) (id : Id) : State :=
  match s.fronts.find? fun h => h.id == id with
  | none => s
  | some h =>
    match h.expiry with
    | none => s
    | some d =>
      let s1 := s.atTime d
      let s2 := match h.window with
        | none => s1
        | some w => s1.abortOverrun w h.offset h.count
      s2.releaseStep.takePresented

end Sys2Proof.Machine
end

