-- ==== Sys2Proof/Machine/Responses.lean ====
section
/-!
DEFINITION. The part's own transactions at the M-port: their responses, each kind at its unit (R16, R139, R140, R146, R161 to
R163, R180), and the giving of a freed place of the Own Traffic Queue (R16). A response that answers no write or read of its
kind is no event (log 6).
-/
namespace Sys2Proof.Machine

/-- The block of a status write's tag. -/
def OwnTag.block : OwnTag → Option (Fin 22)
  | .statusBlock b => some b
  | .zeroRecord | .ringRecord | .billetHalf _ | .ringRead _ _ | .tileRow | .tileHeader _ => none

/-- The strand of a billet record half's tag. -/
def OwnTag.half : OwnTag → Option (Fin 4)
  | .billetHalf k => some k
  | .statusBlock _ | .zeroRecord | .ringRecord | .ringRead _ _ | .tileRow | .tileHeader _ => none

/-- The slot of a tile header's tag. -/
def OwnTag.header : OwnTag → Option (Fin 4)
  | .tileHeader i => some i
  | .statusBlock _ | .zeroRecord | .ringRecord | .billetHalf _ | .ringRead _ _ | .tileRow => none

/-- The slot and queue order of a ring read's tag. -/
def OwnTag.read : OwnTag → Option (Fin 4 × Nat)
  | .ringRead i n => some (i, n)
  | .statusBlock _ | .zeroRecord | .ringRecord | .billetHalf _ | .tileRow | .tileHeader _ => none

/-- The response of a block's write (R180, R183). -/
def State.blockAnswered (s : State) (b : Fin 22) (resp : Resp) : State :=
  let s1 := (s.setMark b (s.mark b).atResponse).memErrOf resp
  (if b = 0 then s1.postCauses else s1).checkRun

/-- A status write is answered (R180). -/
def State.statusResponse (s : State) (resp : Resp) : State :=
  match s.answerWrite fun t => t.block.isSome with
  | none => s
  | some (t, s1) =>
    match t.tag.block with
    | none => s
    | some b => s1.blockAnswered b resp

/-- A zero record write is answered; the last one reports the STARTING writes answered (R140, R172). -/
def State.zeroResponse (s : State) (resp : Resp) : State :=
  match s.answerWrite fun t => t == .zeroRecord with
  | none => s
  | some (_, s1) => ({ s1 with zeroUnanswered := s1.zeroUnanswered - 1 }.memErrOf resp).checkRun

/-- A Findings Ring record write is answered: writes pending falls by one (R139). -/
def State.ringResponse (s : State) (resp : Resp) : State :=
  match s.answerWrite fun t => t == .ringRecord with
  | none => s
  | some (_, s1) => { s1 with ring := { s1.ring with writesPending := s1.ring.writesPending - 1 } }.memErrOf resp

/-- A billet record half is answered (R146). -/
def State.halfResponse (s : State) (resp : Resp) : State :=
  match s.answerWrite fun t => t.half.isSome with
  | none => s
  | some (t, s1) =>
    match t.tag.half with
    | none => s
    | some k => (s1.memErrOf resp).halfAnswered k

/-- A ring read is answered (R161, R162). The writes that its release step frees join the forwarding queue before the presented
transactions taken at the event (log 36). -/
def State.readResponse (s : State) (resp : Resp) (data : List Byte) : State :=
  match s.answerRead with
  | none => s
  | some (t, s1) =>
    match t.tag.read with
    | none => s
    | some (i, order) =>
      if t.count = data.length then (s1.ringReadAnswered i order resp data).takePresented else s

/-- A tile row write is answered (R162). -/
def State.rowResponse (s : State) (resp : Resp) : State :=
  match s.answerWrite fun t => t == .tileRow with
  | none => s
  | some (_, s1) => s1.memErrOf resp

/-- A tile header is answered (R163). -/
def State.headerResponse (s : State) (resp : Resp) : State :=
  match s.answerWrite fun t => t.header.isSome with
  | none => s
  | some (t, s1) =>
    match t.tag.header with
    | none => s
    | some i => (s1.memErrOf resp).headerAnswered i

/-- The place goes to a waiting unit, whose wait has ended (R16, R140, R148, R180). -/
def State.givePlace (s : State) (w : Waiter) : State :=
  match w with
  | .statusWriter => s.statusGiven
  | .zeroRecords => State.queueZeros 16 true s
  | .close k => s.closeGiven k
  | .evidence => s.engineGiven

/-- A freed place is given to the unit that has waited longest (R16); with no free place or no unit waiting nothing is
given (log 6). -/
def State.placeGiven (s : State) : State :=
  if s.own.queue.length < Config.ownPlaces then
    match s.longestWaiter with
    | none => s
    | some (w, s1) => (s1.endWait w).givePlace w
  else s

/-- TAKING (R88): the release steps that the taking makes may let waiting transactions be taken (R13), behind the writes
released (log 36). -/
def State.taking (s : State) : State := s.take.takePresented

end Sys2Proof.Machine
end

