-- ==== Sys2Proof/Machine/Reset.lean ====
section
/-!
DEFINITION. The reset commands (R19).
-/
namespace Sys2Proof.Machine

/-- What is left of the path while RESET_N is low: the transactions in flight are discarded (R19). -/
def Path.abandoned (p : Path) : Path :=
  { Path.reset with refusalReason := p.refusalReason, refusalAddr := p.refusalAddr, nextSeq := p.nextSeq }

/-- What is left of the own traffic while RESET_N is low: the own entries are discarded (R19). -/
def Own.abandoned (o : Own) : Own := { Own.reset with waitCount := o.waitCount }

/-- RESET_ASSERT (R19): from here the ports stand still until RESET_RELEASE (log 20). -/
def execResetAssert (s : State) : Host.Outcome State Fault Refusal :=
  .next { s with resetLow := true, path := s.path.abandoned, own := s.own.abandoned }

/-- RESET_RELEASE (R19): the straps are sampled and every block takes its reset values (log 29). The queue of commands and
the model's own count of free choices are no state of the part and stay. -/
def execResetRelease (ctlStrap : BitVec 20) (ownId : Id) (s : State) : Host.Outcome State Fault Refusal :=
  .next
    { State.reset with
      ctlStrap := ctlStrap, ownId := ownId, choiceNumber := s.choiceNumber, pending := s.pending }

end Sys2Proof.Machine
end

