-- ==== Sys2Proof/WellFormed.lean ====
section
/-!
DEFINITION. Which commands are well formed: a transaction has a byte count from 1 to 4096, does not cross a 4 KiB
boundary, and a write has one strobe for each data byte (00_scope.md, Transactions). Every other operand is in range by
its type.
-/
namespace Sys2Proof

/-- A byte range that one transaction may carry: 1 to 4096 bytes, inside one 4 KiB block. -/
def transactionRange (addr count : Nat) : Bool :=
  1 ≤ count && count ≤ 4096 && addr % 4096 + count ≤ 4096

/-- The well-formed commands. -/
def Instr.wellFormed : Instr → Bool
  | .systemReadArrival _ addr count => transactionRange addr.toNat count
  | .systemWriteArrival _ addr data strobes =>
      transactionRange addr.toNat data.length && strobes.length == data.length
  | .controlPageSettingsWrite offset data strobes =>
      transactionRange offset.toNat data.length && strobes.length == data.length
  | .resetAssert | .resetRelease _ _ | .grant | .ownQueuePlaceGiven | .forwardedResponse _ _ _ _ | .holdLimitExpiry _
  | .encoderPulse _ _ | .cutLineEdge _ | .holdTimerExpiry _ | .oscillationPulse _ | .viewLevelEdge _ _
  | .alertTimerExpiry _ | .statusPeriodExpiry | .taking | .statusWriteResponse _ | .zeroRecordWriteResponse _
  | .ringWriteResponse _ | .billetRecordWriteResponse _ | .ringReadResponse _ _ | .tileRowWriteResponse _
  | .tileHeaderResponse _ | .globalEnableOn | .globalEnableOff | .windowEnable _ | .windowDisable _
  | .filterEntryEnable _ | .filterEntryDisable _ | .causeEnableMaskWrite _ | .ringGetIndexWrite _ | .strandStart _
  | .strandStop _ | .cutNow _ | .headRestart _ | .releaseTiles _ | .ackCauses _ | .ackView _ => true

end Sys2Proof
end

