-- ==== Sys2Proof/Machine/PathCommands.lean ====
section
/-!
DEFINITION. The commands of the memory path: arrivals, grants, places given, forwarded responses and hold-limit expiries
(01_the_memory_path.md).
-/
namespace Sys2Proof.Machine

/-- SYSTEM_READ_ARRIVAL (R2, R3): the read is presented, and taken when the path allows (log 8). -/
def execSystemReadArrival (id : Id) (addr : Addr) (count : Nat) (s : State) : Host.Outcome State Fault Refusal :=
  if (Instr.systemReadArrival id addr count).wellFormed then
    .next (s.event fun t => t.presentRead { id := id, addr := addr, count := count })
  else .refused .malformedTransaction

/-- SYSTEM_WRITE_ARRIVAL (R2, R3): the write is presented, and taken when the path allows (log 8). -/
def execSystemWriteArrival (id : Id) (addr : Addr) (data : List Byte) (strobes : List Bool) (s : State) :
    Host.Outcome State Fault Refusal :=
  if (Instr.systemWriteArrival id addr data strobes).wellFormed then
    .next (s.event fun t => t.presentWrite { id := id, addr := addr, data := data, strobes := strobes })
  else .refused .malformedTransaction

/-- GRANT (R17). -/
def execGrant (s : State) : Host.Outcome State Fault Refusal := .next (s.event State.arbitrate)

/-- OWN_QUEUE_PLACE_GIVEN (R16). -/
def execOwnQueuePlaceGiven (s : State) : Host.Outcome State Fault Refusal := .next (s.event State.placeGiven)

/-- FORWARDED_RESPONSE (R15, R18). -/
def execForwardedResponse (dir : Dir) (id : Id) (resp : Resp) (data : List Byte) (s : State) :
    Host.Outcome State Fault Refusal :=
  .next (s.event fun t => t.forwardedAnswer dir id resp data)

/-- HOLD_LIMIT_EXPIRY (R14). -/
def execHoldLimitExpiry (id : Id) (s : State) : Host.Outcome State Fault Refusal :=
  .next (s.event fun t => t.holdLimit id)

end Sys2Proof.Machine
end

