-- ==== Sys2Proof/Machine/InputCommands.lean ====
section
/-!
DEFINITION. The commands of the pins, the timers and the Track Table's takings (03, 05, 06, 07 and 09 of spec/).
-/
namespace Sys2Proof.Machine

/-- ENCODER_PULSE (R51), at the time base reading it carries (log 4). -/
def execEncoderPulse (k : Fin 4) (at_ : Nat) (s : State) : Host.Outcome State Fault Refusal :=
  .next (s.event fun t => (t.atTime at_).encoderPulse k)

/-- CUT_LINE_EDGE (R55). -/
def execCutLineEdge (k : Fin 4) (s : State) : Host.Outcome State Fault Refusal :=
  .next (s.event fun t => t.cutLine k)

/-- HOLD_TIMER_EXPIRY (R53). -/
def execHoldTimerExpiry (k : Fin 4) (s : State) : Host.Outcome State Fault Refusal :=
  .next (s.event fun t => t.holdExpiry k)

/-- OSCILLATION_PULSE (R116). -/
def execOscillationPulse (k : Fin 4) (s : State) : Host.Outcome State Fault Refusal :=
  .next (s.event fun t => t.oscillation k)

/-- VIEW_LEVEL_EDGE (R61). -/
def execViewLevelEdge (k : Fin 4) (level : HeldLevel) (s : State) : Host.Outcome State Fault Refusal :=
  .next (s.event fun t => t.viewEdge k level)

/-- ALERT_TIMER_EXPIRY (R132). -/
def execAlertTimerExpiry (k : Fin 4) (s : State) : Host.Outcome State Fault Refusal :=
  .next (s.event fun t => t.alertExpiry k)

/-- STATUS_PERIOD_EXPIRY (R181). -/
def execStatusPeriodExpiry (s : State) : Host.Outcome State Fault Refusal := .next (s.event State.periodExpiry)

/-- TAKING (R88). -/
def execTaking (s : State) : Host.Outcome State Fault Refusal := .next (s.event State.taking)

end Sys2Proof.Machine
end

