-- ==== Sys2Proof/Machine/ResponseCommands.lean ====
section
/-!
DEFINITION. The commands that answer the part's own transactions (R16).
-/
namespace Sys2Proof.Machine

/-- STATUS_WRITE_RESPONSE (R180). -/
def execStatusWriteResponse (resp : Resp) (s : State) : Host.Outcome State Fault Refusal :=
  .next (s.event fun t => t.statusResponse resp)

/-- ZERO_RECORD_WRITE_RESPONSE (R140). -/
def execZeroRecordWriteResponse (resp : Resp) (s : State) : Host.Outcome State Fault Refusal :=
  .next (s.event fun t => t.zeroResponse resp)

/-- RING_WRITE_RESPONSE (R139). -/
def execRingWriteResponse (resp : Resp) (s : State) : Host.Outcome State Fault Refusal :=
  .next (s.event fun t => t.ringResponse resp)

/-- BILLET_RECORD_WRITE_RESPONSE (R146). -/
def execBilletRecordWriteResponse (resp : Resp) (s : State) : Host.Outcome State Fault Refusal :=
  .next (s.event fun t => t.halfResponse resp)

/-- RING_READ_RESPONSE (R161). -/
def execRingReadResponse (resp : Resp) (data : List Byte) (s : State) : Host.Outcome State Fault Refusal :=
  .next (s.event fun t => t.readResponse resp data)

/-- TILE_ROW_WRITE_RESPONSE (R162). -/
def execTileRowWriteResponse (resp : Resp) (s : State) : Host.Outcome State Fault Refusal :=
  .next (s.event fun t => t.rowResponse resp)

/-- TILE_HEADER_RESPONSE (R163). -/
def execTileHeaderResponse (resp : Resp) (s : State) : Host.Outcome State Fault Refusal :=
  .next (s.event fun t => t.headerResponse resp)

end Sys2Proof.Machine
end

