-- ==== Sys2Proof/Machine/ControlCommands.lean ====
section
/-!
DEFINITION. The commands that are Control Page writes (R10, R26, R128, R170 to R178). Each is the write of exactly the bytes
named: decided by its checks, and refused, or answered OKAY with its effect (log 7).
-/
namespace Sys2Proof.Machine

/-- One byte of the shadow written (R174). -/
def State.writeShadow (s : State) (off : Nat) (b : Byte) : State := { s with shadow := Memory.write s.shadow off b }

/-- The two bytes of a word at an offset (R184). -/
def wordCells (off : Nat) (v : BitVec 16) : List Host.Cell :=
  [(off, v.setWidth 8), (off + 1, (v >>> 8).setWidth 8)]

/-! ### Effects -/

/-- Global Enable written to 1 (R170, R172): in PASS the part becomes STARTING, elsewhere nothing changes. -/
def State.globalOn (s : State) : State :=
  let s1 := s.writeShadow globalAt 1
  if s.part = .pass then s1.enterStarting else s1

/-- Global Enable written to 0 (R170, R173): in RUN the part becomes PASS, in PASS nothing changes. -/
def State.globalOff (s : State) : State :=
  let s1 := s.writeShadow globalAt 0
  if s.part = .run then s1.enterPass else s1

/-- A window's Enable byte written to 1 (R26, R27). -/
def State.windowOn (s : State) (w : Fin 16) : State :=
  let s1 := s.writeShadow (windowAt w) 1
  if s.windowEnabled w then s1 else s1.enableWindow w

/-- A window's Enable byte written to 0 (R26, R28): the disable takes effect with the fields still in the shadow, and the
release step it makes may let waiting transactions be taken, behind the writes released (log 36). -/
def State.windowOff (s : State) (w : Fin 16) : State :=
  if s.windowEnabled w then ((s.disableWindow w).writeShadow (windowAt w) 0).takePresented
  else s.writeShadow (windowAt w) 0

/-- A filter entry's Enable byte written to 1 (R128, R149). -/
def State.filterOn (s : State) (i : Fin 8) : State :=
  let s1 := s.writeShadow (filterAt i) 1
  if filterEnabled s.shadow i then s1 else s1.enableFilter i

/-! ### Commands -/

/-- GLOBAL_ENABLE_ON (R170, R171, R172). -/
def execGlobalEnableOn (s : State) : Host.Outcome State Fault Refusal :=
  .next (s.event fun t => t.control globalAt (t.checkGlobal [(globalAt, 1)]) State.globalOn)

/-- GLOBAL_ENABLE_OFF (R170, R173). -/
def execGlobalEnableOff (s : State) : Host.Outcome State Fault Refusal :=
  .next (s.event fun t => t.control globalAt (t.checkGlobal [(globalAt, 0)]) State.globalOff)

/-- WINDOW_ENABLE (R24, R26, R27). -/
def execWindowEnable (w : Fin 16) (s : State) : Host.Outcome State Fault Refusal :=
  .next (s.event fun t => t.control (windowAt w) (t.checkWindow [(windowAt w, 1)] w) fun u => u.windowOn w)

/-- WINDOW_DISABLE (R26, R28). -/
def execWindowDisable (w : Fin 16) (s : State) : Host.Outcome State Fault Refusal :=
  .next (s.event fun t => t.control (windowAt w) (t.checkWindow [(windowAt w, 0)] w) fun u => u.windowOff w)

/-- FILTER_ENTRY_ENABLE (R128). -/
def execFilterEntryEnable (i : Fin 8) (s : State) : Host.Outcome State Fault Refusal :=
  .next (s.event fun t => t.control (filterAt i) (t.checkFilter [(filterAt i, 1)] i) fun u => u.filterOn i)

/-- FILTER_ENTRY_DISABLE (R128). -/
def execFilterEntryDisable (i : Fin 8) (s : State) : Host.Outcome State Fault Refusal :=
  .next (s.event fun t =>
    t.control (filterAt i) (t.checkFilter [(filterAt i, 0)] i) fun u => u.writeShadow (filterAt i) 0)

/-- CAUSE_ENABLE_MASK_WRITE (R176): always taken; IRQ_N follows from the state (R183). -/
def execCauseEnableMaskWrite (mask : BitVec 16) (s : State) : Host.Outcome State Fault Refusal :=
  .next (s.event fun t =>
    t.control maskAt none fun u => u.takeShadow (Memory.writeAll u.shadow (wordCells maskAt mask)))

/-- RING_GET_INDEX_WRITE (R176). -/
def execRingGetIndexWrite (index : BitVec 16) (s : State) : Host.Outcome State Fault Refusal :=
  .next (s.event fun t =>
    t.control getAt (t.checkUnlocked (wordCells getAt index)) fun u =>
      u.takeShadow (Memory.writeAll u.shadow (wordCells getAt index)))

/-- STRAND_START (R47, R48). -/
def execStrandStart (arg : Byte) (s : State) : Host.Outcome State Fault Refusal :=
  .next (s.event fun t => t.control (actionAt 0) (t.checkStart arg) fun u => u.onStrandArg arg State.startStrand)

/-- STRAND_STOP (R47, R49). -/
def execStrandStop (arg : Byte) (s : State) : Host.Outcome State Fault Refusal :=
  .next (s.event fun t => t.control (actionAt 1) (t.checkMoving arg) fun u => u.onStrandArg arg State.stopStrand)

/-- CUT_NOW (R47, R55). -/
def execCutNow (arg : Byte) (s : State) : Host.Outcome State Fault Refusal :=
  .next (s.event fun t => t.control (actionAt 2) (t.checkMoving arg) fun u => u.onStrandArg arg State.cutEvent)

/-- HEAD_RESTART (R41). -/
def execHeadRestart (arg : Byte) (s : State) : Host.Outcome State Fault Refusal :=
  .next (s.event fun t => t.control (actionAt 3) (t.checkRestart arg) fun u => u.onChannelArg arg State.restartHead)

/-- RELEASE_TILES (R167): taken in every part state. -/
def execReleaseTiles (mask : BitVec 64) (s : State) : Host.Outcome State Fault Refusal :=
  .next (s.event fun t => t.control (actionAt 4) none fun u => u.releaseTiles mask)

/-- ACK_CAUSES (R178): taken in every part state. -/
def execAckCauses (mask : BitVec 16) (s : State) : Host.Outcome State Fault Refusal :=
  .next (s.event fun t => t.control (actionAt 5) none fun u => u.acknowledge mask)

/-- ACK_VIEW (R62): taken in every part state. -/
def execAckView (mask : Byte) (s : State) : Host.Outcome State Fault Refusal :=
  .next (s.event fun t => t.control (actionAt 6) none fun u => u.ackView mask)

/-- CONTROL_PAGE_SETTINGS_WRITE (R174): a Control Page write of any bytes of the page. The writes that a window disable releases
join the forwarding queue before the presented transactions taken at the event (log 36). -/
def execControlPageSettingsWrite (offset : BitVec 14) (data : List Byte) (strobes : List Bool) (s : State) :
    Host.Outcome State Fault Refusal :=
  if (Instr.controlPageSettingsWrite offset data strobes).wellFormed then
    .next (s.event fun t =>
      let cells := coveredCells offset.toNat data strobes
      t.control offset.toNat (t.checkControl cells) fun u => (u.applyControl cells).takePresented)
  else .refused .malformedTransaction

end Sys2Proof.Machine
end

