-- ==== Sys2Proof/Machine/Dispatch.lean ====
section
/-! DEFINITION. Which meaning each command has: one arm for each constructor of Instr. -/
namespace Sys2Proof.Machine

def exec (i : Instr) (s : State) : Host.Outcome State Fault Refusal :=
  match i with
  | .resetAssert => Sys2Proof.Machine.execResetAssert s
  | .resetRelease ctlStrap ownId => Sys2Proof.Machine.execResetRelease ctlStrap ownId s
  | .systemReadArrival id addr count => Sys2Proof.Machine.execSystemReadArrival id addr count s
  | .systemWriteArrival id addr data strobes => Sys2Proof.Machine.execSystemWriteArrival id addr data strobes s
  | .grant => Sys2Proof.Machine.execGrant s
  | .ownQueuePlaceGiven => Sys2Proof.Machine.execOwnQueuePlaceGiven s
  | .forwardedResponse dir id resp data => Sys2Proof.Machine.execForwardedResponse dir id resp data s
  | .holdLimitExpiry id => Sys2Proof.Machine.execHoldLimitExpiry id s
  | .encoderPulse k at_ => Sys2Proof.Machine.execEncoderPulse k at_ s
  | .cutLineEdge k => Sys2Proof.Machine.execCutLineEdge k s
  | .holdTimerExpiry k => Sys2Proof.Machine.execHoldTimerExpiry k s
  | .oscillationPulse k => Sys2Proof.Machine.execOscillationPulse k s
  | .viewLevelEdge k level => Sys2Proof.Machine.execViewLevelEdge k level s
  | .alertTimerExpiry k => Sys2Proof.Machine.execAlertTimerExpiry k s
  | .statusPeriodExpiry => Sys2Proof.Machine.execStatusPeriodExpiry s
  | .taking => Sys2Proof.Machine.execTaking s
  | .statusWriteResponse resp => Sys2Proof.Machine.execStatusWriteResponse resp s
  | .zeroRecordWriteResponse resp => Sys2Proof.Machine.execZeroRecordWriteResponse resp s
  | .ringWriteResponse resp => Sys2Proof.Machine.execRingWriteResponse resp s
  | .billetRecordWriteResponse resp => Sys2Proof.Machine.execBilletRecordWriteResponse resp s
  | .ringReadResponse resp data => Sys2Proof.Machine.execRingReadResponse resp data s
  | .tileRowWriteResponse resp => Sys2Proof.Machine.execTileRowWriteResponse resp s
  | .tileHeaderResponse resp => Sys2Proof.Machine.execTileHeaderResponse resp s
  | .globalEnableOn => Sys2Proof.Machine.execGlobalEnableOn s
  | .globalEnableOff => Sys2Proof.Machine.execGlobalEnableOff s
  | .windowEnable w => Sys2Proof.Machine.execWindowEnable w s
  | .windowDisable w => Sys2Proof.Machine.execWindowDisable w s
  | .filterEntryEnable e => Sys2Proof.Machine.execFilterEntryEnable e s
  | .filterEntryDisable e => Sys2Proof.Machine.execFilterEntryDisable e s
  | .causeEnableMaskWrite mask => Sys2Proof.Machine.execCauseEnableMaskWrite mask s
  | .ringGetIndexWrite index => Sys2Proof.Machine.execRingGetIndexWrite index s
  | .strandStart arg => Sys2Proof.Machine.execStrandStart arg s
  | .strandStop arg => Sys2Proof.Machine.execStrandStop arg s
  | .cutNow arg => Sys2Proof.Machine.execCutNow arg s
  | .headRestart arg => Sys2Proof.Machine.execHeadRestart arg s
  | .releaseTiles mask => Sys2Proof.Machine.execReleaseTiles mask s
  | .ackCauses mask => Sys2Proof.Machine.execAckCauses mask s
  | .ackView mask => Sys2Proof.Machine.execAckView mask s
  | .controlPageSettingsWrite offset data strobes => Sys2Proof.Machine.execControlPageSettingsWrite offset data strobes s

end Sys2Proof.Machine
end

