-- ==== Sys2Proof/Machine/Step.lean ====
section
/-!
DEFINITION. One step of the machine: the command at the front of the queue, or an idle microsecond when none waits (log 3).
-/
namespace Sys2Proof.Machine

/-- Nothing is commanded: the time base advances by a microsecond; no timer fires by itself (log 3). -/
def State.idle (s : State) : State := { s with timeBase := s.timeBase + 1 }

/-- One step: the command at the front of the queue is taken from it and run (first in, first out). -/
def step (s : State) : Host.Outcome State Fault Refusal :=
  match s.pending with
  | [] => .next s.idle
  | c :: rest => exec c { s with pending := rest }

/-- The command that a word spells by the opcode table's bits, put at the front of the queue; no row gives bits, so no word
spells one and the state is unchanged. Commands come into the queue from outside the machine (log 3). -/
def State.withFetchWord (s : State) (nbits w : Nat) : State :=
  match decodeTableWord nbits w with
  | none => s
  | some c => { s with pending := c :: s.pending }

end Sys2Proof.Machine
end

