-- ==== Sys2Proof/Safety.lean ====
section
/-!
DEFINITION. The terms that claims about the machine use: the invariant that every step keeps, and what the Status Writer may
have done at the end of an event.
-/
namespace Sys2Proof.Machine

/-! ### The invariant -/

/-- A Strand Travel Unit whose travel lies in its range and whose gap list is no longer than its limit (R45, R52, R64). -/
structure StrandUnit.Ok (u : StrandUnit) : Prop where
  travel : u.travel ≤ Config.travelTop
  fraction : u.fraction ≤ 65535
  gaps : u.gaps.length ≤ Config.gapPlaces

/-- A head whose counter and state agree (R37): the counter lies between 0 and 256 and is 256 exactly in OFF, below 128 in
ACTIVE, from 128 on in PASSIVE, 0 in DISABLED and RECOVERING; the good-run count is at most 64, and below it in RECOVERING
(R36, R42). -/
structure Head.Ok (h : Head) : Prop where
  counter : h.errors ≤ 256
  off : h.errors = 256 ↔ h.state = .off
  active : h.state = .active → h.errors < 128
  passive : h.state = .passive → 128 ≤ h.errors
  zero : h.state = .disabled ∨ h.state = .recovering → h.errors = 0
  goodRun : h.goodRun ≤ Config.goodRunLines
  recovering : h.state = .recovering → h.goodRun < Config.goodRunLines

/-- The entries of the Hold Pool on the four lists (R134, R135): each is one of the 256, and none is held twice. -/
structure PoolOk (l : Fin 4 → List Nat) : Prop where
  within : ∀ k n, n ∈ l k → n < Config.poolPlaces
  once : ∀ k, (l k).Nodup
  apart : ∀ j k, j ≠ k → ∀ n, n ∈ l j → n ∉ l k

/-- The bounds the spec gives the part's tables and queues, the canonical form of the shadow (offsets rising, no zero byte
listed: the model's form, log 23), and the ranges: the Outstanding Table holds at most 64 records (R1), 16 writes are held at
most (R12), in arrival order by the numbers that the model gives transactions (log 26), the Own Traffic Queue holds at most 8
(R16), the own-wait count is at most 16 (R17), at most 32 results are queued (R81), the put index is below 1024 (R138), each
head's counter agrees with its state (R37), the Hold Pool has 256 entries and each is held once (R134, R135), at most one copy
slot is COPYING (R160). In PASS the shadow's Global Enable is not 1 (R170, R172). -/
structure State.Inv (s : State) : Prop where
  shadow : Memory.wf s.shadow = true
  pass : s.part = .pass → s.globals.enable ≠ 1
  table : s.path.table.length ≤ Config.tablePlaces
  held : s.path.held.length ≤ Config.heldPlaces
  numbers : (s.path.held.map (·.seq)).Pairwise (· < ·) ∧ ∀ n ∈ s.path.held.map (·.seq), n < s.path.nextSeq
  own : s.own.queue.length ≤ Config.ownPlaces
  wait : s.own.waitCount ≤ Config.ownWaitLimit
  results : resultsQueued s.lineQueue ≤ Config.resultPlaces
  put : s.ring.put < Config.ringPlaces
  units : ∀ k, (s.unit k).Ok
  heads : ∀ k, (s.face k).head.Ok
  pool : PoolOk fun k => (s.billet k).numbers
  copying : ∀ i j, (s.slot i).state = .copying → (s.slot j).state = .copying → i = j

/-! ### The end of an event -/

/-- The write of a block with a sequence count, its 64 bytes fixed from the state as it stands (R179, R180). -/
def State.blockWrite (s : State) (x : Fin 22 × BitVec 32) : OwnTxn :=
  { tag := .statusBlock x.1, addr := BitVec.ofNat 40 (s.ctlBase + 0x4000 + x.1.val * 64), count := 64,
    data := statusBytes s x.1 x.2 }

/-- The state that an event has left is `b`, but for what the Status Writer does (R179, R180, R183): the marks of the
blocks; its writes at the tail of the Own Traffic Queue, each with the bytes of its block; the causes that a write of block 0
among them carries, which are those pending; its own waiting. -/
structure State.Settles (b t : State) : Prop where
  same : t = { b with
    marks := t.marks
    causes := { b.causes with carried := t.causes.carried }
    own := { b.own with queue := t.own.queue, waiters := t.own.waiters } }
  issued : ∃ l : List (Fin 22 × BitVec 32),
    t.own.queue = b.own.queue ++ l.map b.blockWrite ∧
    t.causes.carried = if l.any (fun x => x.1 == 0) then b.causes.pending else b.causes.carried
  waiters : (t.own.waiters.filter fun x => x.1 != .statusWriter) = b.own.waiters.filter fun x => x.1 != .statusWriter

/-- The state with a cause pending. -/
def State.withCause (s : State) (c : Cause) : State :=
  { s with causes := { s.causes with pending := s.causes.pending ||| c.mask } }

/-- The command answers a next state, which is `b` but for what the Status Writer does at the end of the event. -/
def Answers (c : Instr) (s b : State) : Prop := ∃ t, exec c s = .next t ∧ b.Settles t

/-- Nothing is presented at the S-port and not yet taken. -/
def State.nothingPresented (s : State) : Prop := s.path.presentedReads = [] ∧ s.path.presentedWrites = []

/-- The event that took s to t has marked block b (R179, R180): the block is dirty, or its write was issued at the event, so
that it is outstanding with the sequence count raised by one. -/
def State.noted (s t : State) (b : Fin 22) : Prop :=
  (t.mark b).dirty = true ∨ (t.mark b).outstanding = true ∧ (t.mark b).sequence = (s.mark b).sequence + 1

/-! ### States that statements name -/

/-- The state with records in the table, the responses returned that can be, and an entry gained by the forwarding queue. -/
def State.afterJoin (o : State) (table : List Rec) (gained : List (Nat × Nat)) : State :=
  { o with path := { o.path with
      table := (returnPass [] table).1
      returned := o.path.returned ++ (returnPass [] table).2
      forwarding := o.path.forwarding ++ gained
      nextSeq := o.path.nextSeq + 1 } }

/-- The state in which a refusal is recorded, its REFUSED record has joined the table and cause REFUSED is pending (R6). -/
def State.afterRefusal (o : State) (r : Reason) (addr : Addr) (x : Rec) : State :=
  { o with
    path := { o.path with
      refusalReason := r
      refusalAddr := addr
      table := (returnPass [] (o.path.table ++ [x])).1
      returned := (returnPass [] (o.path.table ++ [x])).2
      nextSeq := o.path.nextSeq + 1 }
    causes := { o.causes with pending := o.causes.pending ||| Cause.refused.mask } }

/-- The state t in which a transaction presented, by now off its list in o, has been refused as it was taken (R6, R7): the refusal
recorded, its REFUSED record joined, cause REFUSED pending and block 0 marked, and the responses returned that can be. -/
def State.refusedInto (o : State) (r : Reason) (addr : Addr) (x : Rec) (t : State) : Prop :=
  State.Settles
    ((State.afterJoin { o with path := { o.path with refusalReason := r, refusalAddr := addr } } (o.path.table ++ [x])
      []).withCause .refused) t ∧
  (t.mark 0).dirty = true

/-- The S-port takes the write presented: the table and the held-write queue have room, and no Control Page write is in
flight where it is one (R2). -/
def State.takesWrite (s : State) (addr : Addr) : Prop :=
  s.path.table.length < 64 ∧ s.path.held.length < 16 ∧
    (s.inControlPage addr = true → s.path.controlInFlight = none)

/-- The record of a write that passed the refusal tests (R1, R8). -/
def State.writeRecord (s : State) (id : Id) (addr : Addr) (data : List Byte) (strobes : List Bool)
    (d : Disposition) (face : Option (Fin 16)) : Rec :=
  { seq := s.path.nextSeq, dir := .write, id := id, addr := addr, count := data.length, data := data,
    strobes := strobes, disposition := d
    pieces := [{ target := .direct (s.forwardedAddr (s.lookup addr.toNat) addr), count := data.length, answer := none }]
    window := s.lookup addr.toNat, face := face, captured := face.isSome, controlPage := false, response := none }

/-- The table with the only piece of record r answered and its response known (R1, R15). -/
def State.answeredTable (s : State) (r : Rec) (p : Piece) (resp : Resp) (data : List Byte) : List Rec :=
  s.path.table.map fun x =>
    if x.seq = r.seq then
      { r with pieces := [{ p with answer := some (resp, data) }], response := some (resp, data) }
    else x

/-- The state with one strand's record replaced. -/
def State.withStrand (o : State) (k : Fin 4) (x : Strand) : State := { o with strands := vset o.strands k x }

/-- The state with its oldest own write answered, and MEMERR pending when the answer was ERROR (R16). -/
def State.ownWriteAnswered (s : State) (rest : List OwnTxn) (resp : Resp) : State :=
  let o : State := { s.opened with own := { s.own with writes := rest } }
  match resp with
  | .okay => o
  | .error => o.withCause .memErr

/-- The state after a Control Page write refused with a reason (R6): the last-refusal record and cause REFUSED, nothing
else. -/
def State.controlRefused (s : State) (r : Reason) (offset : Nat) : State :=
  { s.opened with path := { s.opened.path with
      refusalReason := r, refusalAddr := BitVec.ofNat 40 (s.ctlBase + offset) } }.withCause .refused

end Sys2Proof.Machine
end

