-- ==== Sys2Proof/Certificates/Slice0/Obligations.lean ====
section
/-!
DEFINITION. The statements for the provers. A statement about a command says which state it leaves: `Answers c s b` says that
the command answers a next state, which is `b` but for what the Status Writer does at the end of the event. `s.opened` is the
state as the event begins: its number taken, the outputs of the event before gone. Every field that `b` does not name is
unchanged, so each such statement is the frame of its command as well.
-/
open Sys2Proof Sys2Proof.Machine

/-! ### The machine -/

/-- A step runs the command at the front of the queue on the state with the queue's rest; with no command waiting the time
base advances by a microsecond (the model's choice, log 3). -/
def Obligations.StepRunsTheFrontCommand : Prop :=
  (∀ (c : Instr) (rest : List Instr) (s : State),
    step { s with pending := c :: rest } = exec c { s with pending := rest }) ∧
  ∀ s : State, s.pending = [] → step s = .next { s with timeBase := s.timeBase + 1 }

/-- The invariant holds right after reset. -/
def Obligations.ResetHasTheInvariant : Prop := State.reset.Inv

/-- Every step keeps the invariant: the shadow's canonical form (the model's own form of it, log 23), the limits of the
Outstanding Table, the held-write queue, the Own Traffic Queue, the Line Result Queue and the gap lists, the arrival order of the
held writes by the numbers that the model gives transactions (log 26), the own-wait count, the ring's put index, the travel
ranges, each head's counter and good-run count as its state asks (R36, R37), each of the Hold Pool's 256 entries held once (R134,
R135), and at most one copy slot COPYING (R160). -/
def Obligations.EveryStepKeepsTheInvariant : Prop := ∀ s t : State, s.Inv → step s = .next t → t.Inv

/-- Every well-formed command answers a next state in every state and leaves the commands waiting as they were; all but the
resets leave the straps and the level of RESET_N. A malformed one is turned away by name (the model's choice, log 21). -/
def Obligations.EveryCommandAnswers : Prop :=
  ∀ (c : Instr) (s : State),
    (c.wellFormed = true → ∃ t, exec c s = .next t ∧ t.pending = s.pending ∧
      (c ≠ .resetAssert → (∀ a b, c ≠ .resetRelease a b) →
        t.resetLow = s.resetLow ∧ t.ctlStrap = s.ctlStrap ∧ t.ownId = s.ownId)) ∧
    (c.wellFormed = false → exec c s = .refused .malformedTransaction)

/-- RESET_ASSERT discards every transaction in flight (R19). That everything else keeps its value while RESET_N is low is the
model's choice (log 20), as are that the transactions still presented go with the others (log 8) and that the transaction number
goes on (log 26). RESET_RELEASE samples the straps and leaves the path, the part state, the shadow, the causes, the heads, the
models, the strands, the track table, the ring, the tiles and the slots as R19 and the units' own rules give them: every slot
cleared (R152) and the Evidence Engine's counters zero (R168). That an IDLE assembler has its current line and start stamp at 0
and its GAP flag clear, that the halves of a billet record counted as handed over and answered are 0, that the view level's
debounce starts at the time base's origin 0 (log 2, log 5), that a cleared slot's finding class is CORNER and its other numbers
are 0 (log 39), that the queue order starts at 0 (log 26), and that it acts in every state, RESET_N low or not (log 29), are the
model's choices. While RESET_N is low, every well-formed command but the two resets changes nothing (R19); that the pins and
timers stand still too is the model's choice (log 20). -/
def Obligations.ResetAbandonsAndRestores : Prop :=
  (∀ s : State, exec .resetAssert s = .next
     { s with
       resetLow := true
       path := { table := [], held := [], forwarding := [], issued := [], controlInFlight := none,
                 refusalReason := s.path.refusalReason, refusalAddr := s.path.refusalAddr, presentedReads := [],
                 presentedWrites := [], returned := [], mport := none, nextSeq := s.path.nextSeq }
       own := { queue := [], waiters := [], engine := [], reads := [], writes := [], waitCount := s.own.waitCount } }) ∧
  (∀ (a : BitVec 20) (b : Id) (s : State), ∃ t, exec (.resetRelease a b) s = .next t ∧
    t.ctlStrap = a ∧ t.ownId = b ∧ t.resetLow = false ∧
    t.path.table = [] ∧ t.path.held = [] ∧ t.path.forwarding = [] ∧ t.path.controlInFlight = none ∧
    t.path.refusalReason = .noRefusal ∧ t.path.refusalAddr = 0 ∧
    t.own.queue = [] ∧ t.own.waiters = [] ∧ t.own.waitCount = 0 ∧
    t.part = .pass ∧ (∀ n, Memory.read t.shadow n = 0) ∧ (∀ w, t.windowEnabled w = false) ∧
    t.causes.pending = 0 ∧ t.causes.posted = 0 ∧ t.irqAsserted = false ∧ t.statusTimer = none ∧
    (∀ i, t.mark i = .reset) ∧ (∀ w, t.assembler w = .reset) ∧ (∀ k, t.face k = .reset) ∧
    (∀ k, t.unit k = .reset) ∧ (∀ k, t.predictor k = .reset) ∧ (∀ k, t.billet k = .reset) ∧
    t.lineQueue = [] ∧ (∀ e, t.track e = none ∧ (vget t.tracks e).fields = .zero) ∧ t.ring = .reset ∧
    (∀ i, t.tile i = .free) ∧
    (∀ i, t.slot i =
      { state := .idle, severity := 0, cls := .corner, face := 0, firstTravel := 0, lastTravel := 0, window := 0, tile := 0,
        poolEntry := none, order := 0, oldestLine := 0, rowCount := 0, firstCell := 0, lastCell := 0, byteOffset := 0,
        rowBytes := 0, clipped := false, rowsReturned := 0, rowPos := 0, readOutstanding := false, outcome := none,
        readErrors := 0 }) ∧
    t.evidence =
      { tiles := t.evidence.tiles, slots := t.evidence.slots, nextOrder := 0, requests := 0, evidenceOff := 0, assigned := 0,
        busy := 0, noTile := 0, preEmptions := 0, complete := 0, clipped := 0, overrun := 0, aborted := 0, released := 0,
        readErrors := 0 } ∧
    t.pending = s.pending) ∧
  ∀ (c : Instr) (s : State), s.resetLow = true → c.wellFormed = true → c ≠ .resetAssert →
    (∀ a b, c ≠ .resetRelease a b) → exec c s = .next s

/-! ### Arrivals (R1 to R12) -/

/-- A read taken at the S-port, of another ID than OWNID and not redirected, joins the table and the forwarding queue as one
piece, at RemapBase plus its offset where an enabled window remaps it and at its own address otherwise (R1, R3, R8, R15). -/
def Obligations.ReadArrivalIsForwarded : Prop :=
  ∀ (s : State) (id : Id) (addr : Addr) (count : Nat),
    s.resetLow = false → s.nothingPresented → s.path.table.length < 64 →
    (Instr.systemReadArrival id addr count).wellFormed = true → id ≠ s.ownId →
    (s.part = .pass ∨ s.inView addr.toNat count = false) →
    Answers (.systemReadArrival id addr count) s
      (State.afterJoin s.opened
        (s.path.table ++
          [{ seq := s.path.nextSeq, dir := .read, id := id, addr := addr, count := count, data := [], strobes := [],
             disposition := .waiting
             pieces := [{
               target := .direct (match s.lookup addr.toNat with
                 | none => addr
                 | some w =>
                   if (s.window w).remap = 1 then
                     BitVec.ofNat 40 ((s.window w).remapBase + (addr.toNat - (s.window w).base))
                   else addr)
               count := count, answer := none }]
             window := s.lookup addr.toNat, face := none, captured := false, controlPage := false, response := none }])
        [(s.path.nextSeq, 0)])

/-- A read of the published-view area in STARTING or RUN is split (R9): in ascending address order, one piece for each strand
view that it touches, which reads that strand's published bank at the offset touched, and one piece at its own address for what
lies past offset 0x93FF. The pieces cover the read and take consecutive places of the forwarding queue. -/
def Obligations.ViewReadIsSplit : Prop :=
  ∀ (s : State) (id : Id) (addr : Addr) (count : Nat),
    s.resetLow = false → s.nothingPresented → s.path.table.length < 64 →
    (Instr.systemReadArrival id addr count).wellFormed = true → id ≠ s.ownId →
    s.part ≠ .pass → s.inView addr.toNat count = true →
    let past := addr.toNat + count
    let view (k : Nat) : Nat := s.ctlBase + 0x9000 + k * 0x100
    let viewPiece (k : Fin 4) : List Piece :=
      let first := max addr.toNat (view k.val)
      let stop := min past (view k.val + 0x100)
      if first < stop then [{ target := .view k (first - view k.val), count := stop - first, answer := none }] else []
    let directPiece : List Piece :=
      let first := max addr.toNat (view 4)
      if first < past then [{ target := .direct (BitVec.ofNat 40 first), count := past - first, answer := none }] else []
    let pieces := viewPiece 0 ++ viewPiece 1 ++ viewPiece 2 ++ viewPiece 3 ++ directPiece
    Answers (.systemReadArrival id addr count) s
      (State.afterJoin s.opened
        (s.path.table ++
          [{ seq := s.path.nextSeq, dir := .read, id := id, addr := addr, count := count, data := [], strobes := [],
             disposition := .waiting, pieces := pieces, window := s.lookup addr.toNat, face := none, captured := false,
             controlPage := false, response := none }])
        ((List.range pieces.length).map fun i => (s.path.nextSeq, i))) ∧
    (pieces.map (·.count)).sum = count ∧ pieces ≠ []

/-- A read or a write whose ID is OWNID is refused with reason OWN-ID, in every part state and at every address (R4), by the
mechanism of R6. -/
def Obligations.OwnIdIsRefused : Prop :=
  (∀ (s : State) (addr : Addr) (count : Nat),
    s.resetLow = false → s.nothingPresented → s.path.table.length < 64 →
    (Instr.systemReadArrival s.ownId addr count).wellFormed = true →
    Answers (.systemReadArrival s.ownId addr count) s
      (State.afterRefusal s.opened .ownId addr
        { seq := s.path.nextSeq, dir := .read, id := s.ownId, addr := addr, count := count, data := [], strobes := [],
          disposition := .refused, pieces := [], window := s.lookup addr.toNat, face := none, captured := false,
          controlPage := false, response := some (.error, List.replicate count 0) })) ∧
  ∀ (s : State) (addr : Addr) (data : List Byte) (strobes : List Bool),
    s.resetLow = false → s.nothingPresented → State.takesWrite s addr →
    (Instr.systemWriteArrival s.ownId addr data strobes).wellFormed = true →
    Answers (.systemWriteArrival s.ownId addr data strobes) s
      (State.afterRefusal s.opened .ownId addr
        { seq := s.path.nextSeq, dir := .write, id := s.ownId, addr := addr, count := data.length, data := data,
          strobes := strobes, disposition := .refused, pieces := [], window := s.lookup addr.toNat, face := none,
          captured := false, controlPage := false, response := some (.error, []) })

/-- In RUN a write outside the Control Page that touches a region of R5, whatever its strobes, is refused with reason PART-
REGION; and the test names exactly the bytes that R5 lists. -/
def Obligations.PartRegionIsRefused : Prop :=
  (∀ (s : State) (id : Id) (addr : Addr) (data : List Byte) (strobes : List Bool),
    s.resetLow = false → s.nothingPresented → State.takesWrite s addr →
    (Instr.systemWriteArrival id addr data strobes).wellFormed = true → id ≠ s.ownId → s.part = .run →
    s.inControlPage addr = false → s.inPartRegion addr.toNat data.length = true →
    Answers (.systemWriteArrival id addr data strobes) s
      (State.afterRefusal s.opened .partRegion addr
        { seq := s.path.nextSeq, dir := .write, id := id, addr := addr, count := data.length, data := data,
          strobes := strobes, disposition := .refused, pieces := [], window := s.lookup addr.toNat, face := none,
          captured := false, controlPage := false, response := some (.error, []) })) ∧
  ∀ (s : State) (addr count : Nat), s.globals.tileSizeLog ≤ 4 →
    (s.inPartRegion addr count = true ↔ ∃ i, i < count ∧
      ((s.ctlBase + 0x4000 ≤ addr + i ∧ addr + i < s.ctlBase + 0x8000) ∨
       (∃ k : Fin 4, (s.ctlBase + 0x8000 + k.val * 0x200 ≤ addr + i ∧ addr + i < s.ctlBase + 0x8080 + k.val * 0x200) ∨
          (s.ctlBase + 0x8100 + k.val * 0x200 ≤ addr + i ∧ addr + i < s.ctlBase + 0x8180 + k.val * 0x200)) ∨
       (s.ctlBase + 0x9000 ≤ addr + i ∧ addr + i < s.ctlBase + 0x9400) ∨
       (s.ctlBase + 0x10000 ≤ addr + i ∧ addr + i < s.ctlBase + 0x20000) ∨
       (s.globals.evidenceEnable = 1 ∧ s.globals.evidenceBase ≤ addr + i ∧
          addr + i < s.globals.evidenceBase + s.globals.tileCount * (65536 * 2 ^ s.globals.tileSizeLog))))

/-- A write arriving in the Control Page, of another ID than OWNID (R2, R3, R6, R10). One that its checks pass and that is no
capture takes the in-flight place: where it passes the hold test with its place in the table and the forwarding queue, and where it
fails it, behind a held write of its ID or on a protected line of its window, as DEFERRED on its ID's list, with its hold timer
started when it is that list's front (R12, R14). One that a check fails is refused with that check's reason, address and REFUSED
record, and takes no in-flight place; one that finds another in flight stays presented, and nothing else changes. -/
def Obligations.ControlPageWriteArrives : Prop :=
  ∀ (s : State) (id : Id) (addr : Addr) (data : List Byte) (strobes : List Bool),
    s.resetLow = false → s.nothingPresented → (Instr.systemWriteArrival id addr data strobes).wellFormed = true →
    s.inControlPage addr = true →
    let check := s.opened.checkControl (coveredCells (addr.toNat - s.ctlBase) data strobes)
    let fails : Prop := (∃ h ∈ s.path.held, h.id = id) ∨
      ∃ w, s.lookup addr.toNat = some w ∧ s.protectedRange w (addr.toNat - (s.window w).base) data.length = true
    (id ≠ s.ownId → State.takesWrite s addr → check = none →
      (s.part = .run → s.inPartRegion addr.toNat data.length = false) →
      s.captures (s.lookup addr.toNat) id = false →
      (¬fails → Answers (.systemWriteArrival id addr data strobes) s
        (let b := State.afterJoin s.opened
          (s.path.table ++
            [{ State.writeRecord s id addr data strobes .waiting none with controlPage := true }])
          [(s.path.nextSeq, 0)]
         { b with path := { b.path with controlInFlight := some s.path.nextSeq } })) ∧
      (fails → Answers (.systemWriteArrival id addr data strobes) s
        (let b := State.afterJoin s.opened
          (s.path.table ++
            [{ State.writeRecord s id addr data strobes .deferred none with controlPage := true }]) []
         { b with path := { b.path with
            controlInFlight := some s.path.nextSeq
            held := s.path.held ++
              [{ seq := s.path.nextSeq, id := id, window := s.lookup addr.toNat
                 offset := s.windowOffset (s.lookup addr.toNat) addr, count := data.length
                 expiry := if ∃ h ∈ s.path.held, h.id = id then none else some (s.timeBase + s.globals.holdLimit) }] } }))) ∧
    (∀ r, id ≠ s.ownId → State.takesWrite s addr → check = some r →
      Answers (.systemWriteArrival id addr data strobes) s
        (State.afterRefusal s.opened r addr
          { seq := s.path.nextSeq, dir := .write, id := id, addr := addr, count := data.length, data := data,
            strobes := strobes, disposition := .refused, pieces := [], window := s.lookup addr.toNat, face := none,
            captured := false, controlPage := false, response := some (.error, []) })) ∧
    (s.path.controlInFlight ≠ none →
      Answers (.systemWriteArrival id addr data strobes) s
        { s.opened with path := { s.opened.path with
            presentedWrites := [{ id := id, addr := addr, data := data, strobes := strobes }] } })

/-- A write outside the Control Page that is neither refused nor captured, outside RUN or in RUN outside the regions of R5 and
unmatched by a window (R3, R8, R11, R12). One that passes the hold test joins the table and the forwarding queue, and nothing
else changes. One that fails it is held: it joins its ID's list as DEFERRED, with its hold timer started when it is that list's
front (R14). The test fails when the ID's list is not empty, or when the write touches a protected line of its window. -/
def Obligations.WriteArrivalIsForwardedOrHeld : Prop :=
  ∀ (s : State) (id : Id) (addr : Addr) (data : List Byte) (strobes : List Bool),
    s.resetLow = false → s.nothingPresented → State.takesWrite s addr →
    (Instr.systemWriteArrival id addr data strobes).wellFormed = true → id ≠ s.ownId →
    s.inControlPage addr = false → (s.part = .run → s.inPartRegion addr.toNat data.length = false) →
    s.captures (s.lookup addr.toNat) id = false →
    let fails : Prop := (∃ h ∈ s.path.held, h.id = id) ∨
      ∃ w, s.lookup addr.toNat = some w ∧ s.protectedRange w (addr.toNat - (s.window w).base) data.length = true
    (¬fails → Answers (.systemWriteArrival id addr data strobes) s
      (State.afterJoin s.opened
        (s.path.table ++ [State.writeRecord s id addr data strobes .waiting none]) [(s.path.nextSeq, 0)])) ∧
    (fails → Answers (.systemWriteArrival id addr data strobes) s
      (let b := State.afterJoin s.opened
        (s.path.table ++ [State.writeRecord s id addr data strobes .deferred none]) []
       { b with path := { b.path with
          held := s.path.held ++
            [{ seq := s.path.nextSeq, id := id, window := s.lookup addr.toNat
               offset := s.windowOffset (s.lookup addr.toNat) addr, count := data.length
               expiry := if ∃ h ∈ s.path.held, h.id = id then none else some (s.timeBase + s.globals.holdLimit) }] } }))

/-- A write in RUN that lies in an enabled window and matches its ID is captured: its bytes reach the window's Line Assembler
first, its record names the face, and then the hold test is made on what the capture has left (R11, R12). One that passes joins
the forwarding queue; one that fails is held as DEFERRED, its bytes captured all the same. -/
def Obligations.WriteArrivalIsCaptured : Prop :=
  ∀ (s : State) (id : Id) (addr : Addr) (data : List Byte) (strobes : List Bool) (w : Fin 16),
    s.resetLow = false → s.nothingPresented → State.takesWrite s addr →
    (Instr.systemWriteArrival id addr data strobes).wellFormed = true → id ≠ s.ownId →
    s.inControlPage addr = false → s.part = .run → s.inPartRegion addr.toNat data.length = false →
    s.lookup addr.toNat = some w → (s.window w).idMatches id = true →
    let offset := addr.toNat - (s.window w).base
    let c := s.opened.captureWrite w offset data strobes
    let fails : Prop := (∃ h ∈ c.path.held, h.id = id) ∨ c.protectedRange w offset data.length = true
    (¬fails → Answers (.systemWriteArrival id addr data strobes) s
      (State.afterJoin c
        (c.path.table ++ [State.writeRecord s id addr data strobes .waiting (some (s.window w).channel)])
        [(s.path.nextSeq, 0)])) ∧
    (fails → Answers (.systemWriteArrival id addr data strobes) s
      (let b := State.afterJoin c
        (c.path.table ++ [State.writeRecord s id addr data strobes .deferred (some (s.window w).channel)]) []
       { b with path := { b.path with
          held := c.path.held ++
            [{ seq := s.path.nextSeq, id := id, window := some w, offset := offset, count := data.length
               expiry := if ∃ h ∈ c.path.held, h.id = id then none else some (c.timeBase + c.globals.holdLimit) }] } }))

/-- The Line Assembler (R29, R32 to R34). The pieces of a captured write are its runs of bytes in the pixel bytes of one line
each, in ascending order of line, none of padding or of the bytes beyond the ring, and the assembler takes them one after another.
A piece that goes on with the line being filled, every strobe set, joins it; the piece that brings the line to LineBytes completes
it: the head takes a good-line event, the line of a head that was ACTIVE or PASSIVE is passed on to the Surface Model, the
completed count rises and the assembler becomes IDLE with that line as its last. Any other piece tears the line, which counts it
and gives the head an error event, and is then treated as in IDLE. In IDLE a piece at offset 0 opens its line with the strand's
travel as its stamp, a sequence gap counted and given to the head as an error event, and then joins it; a piece elsewhere is
ignored. That a piece that opens a line with a strobe clear tears it and ends there is the model's reading (log 33); that the line
that ends a recovery is not passed on is R42's word beside R34's (log 15); that an assembler which becomes IDLE has its current
line and start stamp at 0 and its GAP flag clear (log 2), and that the carry is every byte of the line received so far (log 16),
are its choices. The line carries its face channel and its source window, its stamp, index and marks, and the pixel values of the
face's cells, cell FirstCell first, each cell from its own bytes of the line, counted from the end where Mirror is set (R23),
without the bytes that P10 and P12 drop (R22). -/
def Obligations.LinePiecesMakeLines : Prop :=
  (∀ (x : Window) (offset : Nat) (data : List Byte) (strobes : List Bool),
    0 < x.stride → x.lineBytes ≤ x.stride → strobes.length = data.length →
    let l := linePieces x offset data strobes
    l.Pairwise (fun p q => p.line < q.line) ∧
    (∀ p ∈ l, p.data ≠ [] ∧ p.strobes.length = p.data.length ∧ p.line < x.ringLines ∧
      p.start + p.data.length ≤ x.lineBytes ∧ offset ≤ p.line * x.stride + p.start ∧
      ∀ i, i < p.data.length →
        data[p.line * x.stride + p.start + i - offset]? = p.data[i]? ∧
        strobes[p.line * x.stride + p.start + i - offset]? = p.strobes[i]?) ∧
    ∀ j, j < data.length → (offset + j) / x.stride < x.ringLines → (offset + j) % x.stride < x.lineBytes →
      ∃ p ∈ l, p.line = (offset + j) / x.stride ∧ p.start ≤ (offset + j) % x.stride ∧
        (offset + j) % x.stride < p.start + p.data.length) ∧
  (∀ (s : State) (w : Fin 16) (offset : Nat) (data : List Byte) (strobes : List Bool),
    s.captureWrite w offset data strobes =
      (linePieces (s.window w) offset data strobes).foldl (fun t p => t.handlePiece w (s.window w) p) s) ∧
  ∀ (s : State) (w : Fin 16) (x : Window) (p : LinePiece),
    let a := s.assembler w
    let k := x.channel
    let y := s.face k
    let idle : Assembler := { a with filling := false, line := 0, carry := [], stamp := 0, gap := false }
    let torn (o : State) : State :=
      let c := (o.face k).capture
      State.headError
        { o with
          assemblers := vset o.assemblers w
            { o.assembler w with filling := false, line := 0, carry := [], stamp := 0, gap := false }
          faces := vset o.faces k { o.face k with capture := { c with torn := min (c.torn + 1) 0xFFFFFFFF } } } k
    let goesOn : Prop := p.line = a.line ∧ p.start = a.carry.length ∧ ∀ b ∈ p.strobes, b = true
    (a.filling = true → goesOn → (a.carry ++ p.data).length < x.lineBytes →
      s.handlePiece w x p = { s with assemblers := vset s.assemblers w { a with carry := a.carry ++ p.data } }) ∧
    (a.filling = true → goesOn → x.lineBytes ≤ (a.carry ++ p.data).length →
      let g := s.headGood k
      let r := if y.head.state = .active ∨ y.head.state = .passive then
          g.lineReaches
            { face := k, window := w, stamp := a.stamp, index := a.line, gap := a.gap
              lowConf := (g.face k).head.state = .passive, firstCell := x.firstCell
              cells := facePixels x (a.carry ++ p.data) }
        else g
      let c := (r.face k).capture
      s.handlePiece w x p =
        { r with
          faces := vset r.faces k { r.face k with capture := { c with completed := min (c.completed + 1) 0xFFFFFFFF } }
          assemblers := vset r.assemblers w { idle with lastCompleted := some a.line } }) ∧
    (a.filling = true → ¬goesOn → s.handlePiece w x p = (torn s).pieceInIdle w x p) ∧
    (a.filling = false → s.handlePiece w x p = s.pieceInIdle w x p) ∧
    (p.start ≠ 0 → s.pieceInIdle w x p = s) ∧
    (p.start = 0 →
      let gap : Bool := match a.lastCompleted with
        | none => false
        | some n => p.line != (n + 1) % x.ringLines
      let counted : State :=
        { s with
          faces := vset s.faces k
            { y with capture := { y.capture with sequenceGaps := min (y.capture.sequenceGaps + 1) 0xFFFFFFFF } } }
      let g := if gap then counted.headError k else s
      let o : State :=
        { g with
          assemblers := vset g.assemblers w
            { a with filling := true, line := p.line, carry := [], stamp := (s.unit (strandOf k)).travel, gap := gap } }
      ((∀ b ∈ p.strobes, b = true) → s.pieceInIdle w x p = o.handlePiece w x p) ∧
      ((∃ b ∈ p.strobes, b = false) → s.pieceInIdle w x p = torn o)) ∧
    (let cell : Nat := if x.pixelFormat = 0 then 8 else if x.pixelFormat = 1 then 10 else 12
     let start (c : Nat) : Nat := if x.mirror = 1 then x.pixelsPerLine / 8 * cell - (c + 1) * cell else c * cell
     ∀ line : List Byte,
      facePixels x line = (List.range (x.lastCell + 1 - x.firstCell)).map fun i =>
        cellPixels x.pixelFormat ((line.drop (start (x.firstCell + i))).take cell)) ∧
    (∀ bytes, cellPixels 0 bytes = bytes) ∧
    (∀ a b c d e f g h i j, cellPixels 1 [a, b, c, d, e, f, g, h, i, j] = [a, b, c, d, f, g, h, i]) ∧
    ∀ a b c d e f g h i j k l, cellPixels 2 [a, b, c, d, e, f, g, h, i, j, k, l] = [a, b, d, e, g, h, j, k]

/-- Taking at the S-port (R2). With 64 records in the table a read stays presented, and with 64 records or 16 held writes a write
does; nothing else changes. An arrival in general joins the end of what its direction has presented, and then everything presented
that can be taken is taken, in the order presented: the first read while the table has a free place; the first write while the
table has a free place, fewer than 16 writes are held and, where it lies in the Control Page, no Control Page write is in flight;
what stands behind a write that stays waits with it, whatever its ID and address; the taking ends when neither direction's first
can go. That presented transactions wait in order is the model's reading (log 8); which goes where both can is left free (log 9).
A transaction taken leaves its list and is examined in R3's order, as the path then stands, and every response that can be
returned is (R7). A read of OWNID is refused; another joins with its pieces. A write is refused by the first test that fails,
OWN-ID, the Control Page checks, PART-REGION; one that passes is captured where it is (R11), its capture marking the blocks whose
published fields it changed (the model's choice, log 12), takes the in-flight place where it lies in the Control Page (R10), and
joins the forwarding queue, or where the hold test fails the held writes (R12, R14). A refusal is recorded with its REFUSED record
(R6). -/
def Obligations.FullPathLeavesArrivalsPresented : Prop :=
  (∀ (s : State) (id : Id) (addr : Addr) (count : Nat),
    s.resetLow = false → (Instr.systemReadArrival id addr count).wellFormed = true →
    let b : State := { s.opened with path := { s.opened.path with
      presentedReads := s.path.presentedReads ++ [{ id := id, addr := addr, count := count }] } }
    Answers (.systemReadArrival id addr count) s b.takePresented ∧
    (s.nothingPresented → 64 ≤ s.path.table.length → b.takePresented = b)) ∧
  (∀ (s : State) (id : Id) (addr : Addr) (data : List Byte) (strobes : List Bool),
    s.resetLow = false → (Instr.systemWriteArrival id addr data strobes).wellFormed = true →
    let b : State := { s.opened with path := { s.opened.path with
      presentedWrites := s.path.presentedWrites ++ [{ id := id, addr := addr, data := data, strobes := strobes }] } }
    Answers (.systemWriteArrival id addr data strobes) s b.takePresented ∧
    (s.nothingPresented → (64 ≤ s.path.table.length ∨ 16 ≤ s.path.held.length) → b.takePresented = b)) ∧
  (∀ s : State,
    let readGoes : Prop := s.path.presentedReads ≠ [] ∧ s.path.table.length < 64
    let writeGoes : Prop := ∃ x rest, s.path.presentedWrites = x :: rest ∧ State.takesWrite s x.addr
    (¬readGoes → ¬writeGoes → s.takePresented = s) ∧
    (readGoes → ¬writeGoes → s.takePresented = s.takeRead.takePresented) ∧
    (¬readGoes → writeGoes → s.takePresented = s.takeWrite.takePresented) ∧
    (readGoes → writeGoes →
      let c : State := { s with choiceNumber := s.choiceNumber + 1 }
      s.takePresented = c.takeRead.takePresented ∨ s.takePresented = c.takeWrite.takePresented)) ∧
  (∀ (s : State) (r : PresentedRead) (rest : List PresentedRead), s.path.presentedReads = r :: rest →
    let o : State := { s with path := { s.path with presentedReads := rest } }
    let record (d : Disposition) (pieces : List Piece) (answer : Option (Resp × List Byte)) : Rec :=
      { seq := s.path.nextSeq, dir := .read, id := r.id, addr := r.addr, count := r.count, data := [], strobes := []
        disposition := d, pieces := pieces, window := s.lookup r.addr.toNat, face := none, captured := false
        controlPage := false, response := answer }
    (r.id = s.ownId →
      State.refusedInto o .ownId r.addr (record .refused [] (some (.error, List.replicate r.count 0))) s.takeRead) ∧
    (r.id ≠ s.ownId →
      s.takeRead = State.afterJoin o (s.path.table ++ [record .waiting (s.readPieces r) none])
        ((List.range (s.readPieces r).length).map fun i => (s.path.nextSeq, i)))) ∧
  ∀ (s : State) (x : PresentedWrite) (rest : List PresentedWrite), s.path.presentedWrites = x :: rest →
    let o : State := { s with path := { s.path with presentedWrites := rest } }
    let inPage := s.inControlPage x.addr
    let w := s.lookup x.addr.toNat
    let offset := s.windowOffset w x.addr
    let check := if inPage then o.checkControl (coveredCells (x.addr.toNat - s.ctlBase) x.data x.strobes) else none
    let inRegion : Prop := s.part = .run ∧ s.inPartRegion x.addr.toNat x.data.length = true
    let refused (r : Reason) : Prop :=
      State.refusedInto o r x.addr
        { seq := s.path.nextSeq, dir := .write, id := x.id, addr := x.addr, count := x.data.length, data := x.data
          strobes := x.strobes, disposition := .refused, pieces := [], window := w, face := none, captured := false
          controlPage := false, response := some (.error, []) } s.takeWrite
    let joined (c : State) (face : Option (Fin 16)) (inFlight : Option Nat) : Prop :=
      let u : State := { c with path := { c.path with controlInFlight := inFlight } }
      let record (d : Disposition) : Rec :=
        { State.writeRecord s x.id x.addr x.data x.strobes d face with controlPage := inPage }
      let fails : Prop := (∃ h ∈ c.path.held, h.id = x.id) ∨ ∃ v, w = some v ∧ c.protectedRange v offset x.data.length = true
      (¬fails → s.takeWrite = State.afterJoin u (c.path.table ++ [record .waiting]) [(s.path.nextSeq, 0)]) ∧
      (fails →
        let b := State.afterJoin u (c.path.table ++ [record .deferred]) []
        s.takeWrite = { b with path := { b.path with
          held := c.path.held ++
            [{ seq := s.path.nextSeq, id := x.id, window := w, offset := offset, count := x.data.length
               expiry := if ∃ h ∈ c.path.held, h.id = x.id then none else some (c.timeBase + c.globals.holdLimit) }] } })
    (x.id = s.ownId → refused .ownId) ∧
    (∀ r, x.id ≠ s.ownId → check = some r → refused r) ∧
    (x.id ≠ s.ownId → check = none → inRegion → refused .partRegion) ∧
    (x.id ≠ s.ownId → check = none → ¬inRegion →
      let inFlight (c : State) : Option Nat := if inPage then some s.path.nextSeq else c.path.controlInFlight
      (s.captures w x.id = false → joined o none (inFlight o)) ∧
      ∀ v, s.part = .run → w = some v → (s.window v).idMatches x.id = true →
        let c := (o.captureWrite v offset x.data x.strobes).markChanges o
        joined c (some (s.window v).channel) (inFlight c))

/-! ### Grants, places and responses (R7, R14 to R18) -/

/-- The five rows of R17, each with the own-wait count it leaves; a grant takes one piece or one own transaction out on the
M-port; the count is 0 after reset and the own head goes once it has waited through 16 forwarded grants. The pieces of a view read
are fixed at the grant of the first of them, each strand's to the bank published then (R9): bank A at 0x8000 and bank B at 0x8100,
0x200 further for each strand. -/
def Obligations.GrantFollowsTheArbiterTable : Prop :=
  (∀ s : State, s.resetLow = false → s.path.forwarding = [] → s.own.queue = [] → Answers .grant s s.opened) ∧
  (∀ (s : State) (q i : Nat) (rest : List (Nat × Nat)) (r : Rec) (p : Piece),
    s.resetLow = false → s.path.forwarding = (q, i) :: rest → s.record q = some r → r.pieces[i]? = some p →
    (s.own.queue = [] ∨ s.own.waitCount < 16) →
    Answers .grant s
      { s.opened with
        path := { s.opened.path with
          forwarding := rest
          issued := s.path.issued ++ [(q, i)]
          mport := some { dir := r.dir, id := r.id, addr := s.resolve p.target, count := p.count, data := r.data,
                          strobes := r.strobes }
          table := s.path.table.map fun x =>
            if x.seq = q then
              { x with
                pieces := if i = 0 then s.fixPieces r.pieces else r.pieces
                disposition := if i + 1 = r.pieces.length then .forwarded else x.disposition }
            else x }
        own := { s.own with waitCount := if s.own.queue = [] then 0 else s.own.waitCount + 1 } }) ∧
  (∀ (s : State) (t : OwnTxn) (rest : List OwnTxn),
    s.resetLow = false → s.own.queue = t :: rest → (s.path.forwarding = [] ∨ 16 ≤ s.own.waitCount) →
    Answers .grant s
      { s.opened with
        path := { s.opened.path with mport := some (s.ownIssue t) }
        own := { s.own with
          queue := rest
          reads := if t.tag.isRead then s.own.reads ++ [t] else s.own.reads
          writes := if t.tag.isRead then s.own.writes else s.own.writes ++ [t]
          waitCount := 0 } }) ∧
  State.reset.own.waitCount = 0 ∧
  ∀ s : State,
    (∀ a, s.resolve (.direct a) = a) ∧
    (∀ (k : Fin 4) (offset : Nat), s.resolve (.view k offset) =
      BitVec.ofNat 40 (s.ctlBase + 0x8000 + k.val * 0x200 +
        (if (s.billet k).published = .bankA then 0 else 0x100) + offset)) ∧
    ∀ l : List Piece, s.fixPieces l = l.map fun p =>
      { target := .direct (s.resolve p.target), count := p.count, answer := p.answer }

/-- A place of the Own Traffic Queue freed by a grant goes to a waiting unit (R16, R140, R148, R180): to the one that has waited
longest, its wait ended; of units that have waited equally long, to either (log 9). The Status Writer issues its lowest-numbered
block that qualifies, with its marks cleared and its count raised, block 0 carrying the causes pending (R183); the Evidence
Engine's first transaction joins, and where it is a ring read its slot's read is outstanding from then on (R152); the next zero
record joins, the halves of each bank's record in ascending order of address; a strand's close goes on from the step at which it
waits, its taking or the next half of its record. That a ring read is issued, and so outstanding, at its joining is the model's
reading (log 41); that a unit with more to issue begins a new wait (log 11), and that of the two halves of a zero record the one
at the lower address goes first (log 44), are its choices. -/
def Obligations.PlaceGoesToTheWaitingUnit : Prop :=
  (∀ s : State, s.resetLow = false → s.own.queue.length ≤ 7 → s.own.waiters ≠ [] →
    ∃ x ∈ s.own.waiters, (∀ y ∈ s.own.waiters, x.2 ≤ y.2) ∧ ∃ choice : Nat,
      Answers .ownQueuePlaceGiven s
        (State.givePlace
          { s.opened with
            choiceNumber := choice
            own := { s.own with waiters := s.own.waiters.filter fun y => y.1 != x.1 } } x.1)) ∧
  (∀ (s : State) (n : Nat) (b : Fin 22),
    s.resetLow = false → s.own.queue.length = 7 → s.own.waiters = [(.statusWriter, n)] →
    (s.mark b).qualifies = true → (∀ j, j < b → (s.mark j).qualifies = false) →
    ∃ t, exec .ownQueuePlaceGiven s = .next t ∧
      State.Settles
        { s.opened with
          causes := { s.causes with carried := if b = 0 then s.causes.pending else s.causes.carried }
          own := { s.own with
            waiters := []
            queue := s.own.queue ++
              [{ tag := .statusBlock b, addr := BitVec.ofNat 40 (s.ctlBase + 0x4000 + b.val * 64), count := 64
                 data := statusBytes s b ((s.mark b).sequence + 1) }] } } t ∧
      t.mark b = { s.mark b with
        dirty := false, periodic := false, outstanding := true, sinceStarting := true
        sequence := (s.mark b).sequence + 1 }) ∧
  (∀ (s : State) (n : Nat) (x : OwnTxn) (rest : List OwnTxn),
    s.resetLow = false → s.own.queue.length = 7 → s.own.waiters = [(.evidence, n)] → s.own.engine = x :: rest →
    let joined : State := { s.opened with own := { s.own with
      queue := s.own.queue ++ [x]
      engine := rest
      waiters := if rest = [] then [] else [(.evidence, s.eventNumber + 1)] } }
    (x.tag.isRead = false → Answers .ownQueuePlaceGiven s joined) ∧
    ∀ i m, x.tag = .ringRead i m → Answers .ownQueuePlaceGiven s
      { joined with evidence := { s.evidence with
          slots := vset s.evidence.slots i { s.slot i with readOutstanding := true } } }) ∧
  (∀ (s : State) (n : Nat),
    s.resetLow = false → s.own.queue.length = 7 → s.own.waiters = [(.zeroRecords, n)] → 0 < s.zeroToQueue →
    let z := 16 - s.zeroToQueue
    Answers .ownQueuePlaceGiven s
      { s.opened with
        zeroToQueue := s.zeroToQueue - 1
        own := { s.own with
          queue := s.own.queue ++
            [{ tag := .zeroRecord
               addr := BitVec.ofNat 40 (s.ctlBase + 0x8000 + z / 4 * 0x200 + z / 2 % 2 * 0x100 + z % 2 * 64)
               count := 64, data := List.replicate 64 0 }]
          waiters := if s.zeroToQueue = 1 then [] else [(.zeroRecords, s.eventNumber + 1)] } }) ∧
  ∀ (s : State) (n : Nat) (k : Fin 4), s.resetLow = false → s.own.queue.length = 7 → s.own.waiters = [(.close k, n)] →
    let y := s.billet k
    let bank := s.bankBase k y.published.other
    let ended : State := { s.opened with own := { s.own with waiters := [] } }
    let half (t : OwnTxn) (queued : Nat) (waiters : List (Waiter × Nat)) : State :=
      { State.withStrand s.opened k { s.strand k with billet := { y with halvesQueued := queued } } with
        own := { s.own with queue := s.own.queue ++ [t], waiters := waiters } }
    (y.close = .taking → Answers .ownQueuePlaceGiven s (ended.continueTaking k true)) ∧
    (y.close = .recording → y.halvesQueued = 0 → Answers .ownQueuePlaceGiven s
      (half { tag := .billetHalf k, addr := BitVec.ofNat 40 bank, count := 64, data := billetFirstHalf k y.working } 1
        [(.close k, s.eventNumber + 1)])) ∧
    (y.close = .recording → y.halvesQueued = 1 → Answers .ownQueuePlaceGiven s
      (half { tag := .billetHalf k, addr := BitVec.ofNat 40 (bank + 64), count := 64
              data := billetSecondHalf k y.working } 2 []))

/-- The responses that go back are those known whose earlier records of the same ID and kind have gone, in arrival order
(R7): a record that stays is unanswered, or stands behind a record of its ID and kind that stays. -/
def Obligations.ResponsesReturnInOrder : Prop :=
  ∀ l : List Rec,
    (∀ (i : Nat) (r : Rec), (returnPass [] l).1[i]? = some r → r.response ≠ none →
      ∃ (j : Nat) (x : Rec), j < i ∧ (returnPass [] l).1[j]? = some x ∧ x.dir = r.dir ∧ x.id = r.id) ∧
    (returnPass [] l).1.Sublist l ∧
    (returnPass [] l).1.length + (returnPass [] l).2.length = l.length ∧
    ∀ (d : Dir) (i : Id), ∃ k : Nat,
      ((returnPass [] l).2.filter fun x => x.dir == d && x.id == i).map (fun x => (x.resp, x.data)) =
        ((l.filter fun r => r.dir == d && r.id == i).take k).filterMap (·.response) ∧
      ((returnPass [] l).1.filter fun r => r.dir == d && r.id == i) = (l.filter fun r => r.dir == d && r.id == i).drop k

/-- The response to a forwarded piece of a transaction that is no Control Page write (R15, R18, R38). The response to an only
piece, OKAY or ERROR, becomes the transaction's, with the data of a read, and goes back under R7; nothing else changes. The
response to one piece of a split read is kept with its piece; when every piece is answered their data is joined in order, with
ERROR where any piece's response is, and goes back under R7. The ERROR response to a captured write goes back as well, raises the
memory-error count of its face, whatever the state of that face's head, gives that head an error event and raises MEMERR; then
responses are returned, and transactions presented that can now be taken are (R2). That the count rises also where the head is
DISABLED, whose counters R28 and R44 keep and to which the table of 2.9 gives MEMERR only, is the model's reading of R38 (log 43).
That writes which the head's closes release join the forwarding queue before those transactions is the model's choice (log 36). -/
def Obligations.ForwardedResponseReturns : Prop :=
  (∀ (s : State) (dir : Dir) (id : Id) (resp : Resp) (data : List Byte) (q : Nat) (r : Rec) (p : Piece),
    s.resetLow = false → s.nothingPresented → s.answered dir id = some (q, 0) → s.record q = some r →
    r.pieces = [p] → r.dataFits 0 data = true → (r.face = none ∨ resp = .okay) → r.controlPage = false →
    Answers (.forwardedResponse dir id resp data) s
      { s.opened with path := { s.opened.path with
          issued := s.path.issued.filter fun x => x != (q, 0)
          table := (returnPass [] (State.answeredTable s r p resp data)).1
          returned := (returnPass [] (State.answeredTable s r p resp data)).2 } }) ∧
  (∀ (s : State) (id : Id) (resp : Resp) (data : List Byte) (q i : Nat) (r : Rec),
    s.resetLow = false → s.nothingPresented → s.answered .read id = some (q, i) → s.record q = some r →
    r.dir = .read → r.dataFits i data = true → r.face = none → r.controlPage = false →
    let pieces := r.pieces.zipIdx.map fun x => if x.2 = i then { x.1 with answer := some (resp, data) } else x.1
    let known : Option (Resp × List Byte) :=
      if ∀ p ∈ pieces, p.answer ≠ none then
        some (if pieces.any fun p => p.answer.any fun a => a.1 == .error then .error else .okay,
          (pieces.map fun p => match p.answer with
            | none => []
            | some a => a.2).flatten)
      else r.response
    let table := s.path.table.map fun x => if x.seq = q then { r with pieces := pieces, response := known } else x
    Answers (.forwardedResponse .read id resp data) s
      { s.opened with path := { s.opened.path with
          issued := s.path.issued.filter fun x => x != (q, i)
          table := (returnPass [] table).1
          returned := (returnPass [] table).2 } }) ∧
  ∀ (s : State) (id : Id) (q : Nat) (r : Rec) (p : Piece) (k : Fin 16),
    s.resetLow = false → s.answered .write id = some (q, 0) → s.record q = some r → r.dir = .write → r.pieces = [p] →
    r.face = some k → r.controlPage = false →
    let x := s.face k
    let b : State :=
      { s.opened with
        path := { s.opened.path with
          issued := s.path.issued.filter fun x => x != (q, 0)
          table := State.answeredTable s r p .error [] }
        faces := vset s.faces k
          { x with capture := { x.capture with memoryErrors := min (x.capture.memoryErrors + 1) 0xFFFFFFFF } } }
    Answers (.forwardedResponse .write id .error []) s
      (((b.headError k).raise .memErr).returnResponses.takePresented)

/-- The response to the Control Page write in flight gives up its place; at an OKAY its covered bytes are merged and its actions
performed, at an ERROR nothing is taken; then responses are returned, and what was presented and can now be taken is (R2, R7,
R10). The merge (R174): the shadow takes the bytes of every area but the action words, with the effects of the entries that become
disabled and enabled, of Global Enable, of the cause-enable mask and of the filter entries enabled (R27, R28, R149, R172, R173,
R176). The actions (R177, R178, R185): each word covered whole is performed, in ascending order of offset, with the argument its
bytes spell; an argument beyond the strands or the channels names none. Performed alone on a state that allows it, an action is
its own command; that such a command is checked and answered OKAY at one event is the model's reading (log 7). The spec orders
neither the effects of one merge nor its windows, nor the writes released before the transactions taken: that the disables come
first, then the shadow, Global Enable, the enables and the filter entries (log 17), that several windows go in ascending entry
number (log 37), and that the writes released join the forwarding queue first (log 36), are the model's choices; that a write
which leaves the cause-enable mask as it was marks no block, where R176 has the mask write mark block 0, is the model's reading
(log 13); that an action finds the merge and the actions before it done is R174's and R177's word. -/
def Obligations.ControlWriteTakesEffectAtOkay : Prop :=
  (∀ (s : State) (id : Id) (resp : Resp) (q : Nat) (r : Rec) (p : Piece),
    s.resetLow = false → s.answered .write id = some (q, 0) → s.record q = some r →
    r.dir = .write → r.pieces = [p] → r.face = none → r.controlPage = true →
    let b : State :=
      { s.opened with path := { s.opened.path with
          issued := s.path.issued.filter fun x => x != (q, 0)
          table := State.answeredTable s r p resp []
          controlInFlight := none } }
    Answers (.forwardedResponse .write id resp []) s
      (match resp with
      | .okay => (b.applyControl (coveredCells (r.addr.toNat - s.ctlBase) r.data r.strobes)).returnResponses.takePresented
      | .error => b.returnResponses.takePresented)) ∧
  (∀ (s : State) (cells : List Host.Cell),
    let m := s.shadow
    let m' := (cells.filter fun c => decide (c.1 < 0x110 ∨ 0x400 ≤ c.1 ∧ c.1 < 0xE80)).foldl
      (fun a c => Memory.write a c.1 c.2) m
    let on (a : List Host.Cell) (w : Fin 16) : Bool := Memory.read a (0x400 + w.val * 0x40) == 1
    let filterOn (a : List Host.Cell) (i : Fin 8) : Bool := Memory.read a (0xE00 + i.val * 0x10) == 1
    let closed := ((List.finRange 16).filter fun w => on m w && !on m' w).foldl State.disableWindow s
    let taken : State := { closed with shadow := m' }
    let masked := if taken.causeMask = closed.causeMask then taken else taken.markDirty 0
    let moved :=
      if masked.part = .pass ∧ Memory.read m' 0 = 1 then masked.enterStarting
      else if masked.part = .run ∧ Memory.read m 0 = 1 ∧ Memory.read m' 0 = 0 then masked.enterPass
      else masked
    let opened := ((List.finRange 16).filter fun w => !on m w && on m' w).foldl State.enableWindow moved
    s.mergeControl cells =
      ((List.finRange 8).filter fun i => !filterOn m i && filterOn m' i).foldl
        (fun u i => { u with ring := { u.ring with hits := vset u.ring.hits i 0 } }) opened) ∧
  (∀ (s : State) (cells : List Host.Cell),
    let word (n : Nat) : List Byte :=
      (cells.filter fun c => decide (0x200 + n * 8 ≤ c.1 ∧ c.1 < 0x208 + n * 8)).map (·.2)
    s.applyControl cells = (List.finRange 7).foldl
      (fun u n => if (word n.val).length = 8 then u.performAction (actionWord n (word n.val)) else u)
      (s.mergeControl cells)) ∧
  (∀ (s : State) (b : Byte) (rest : List Byte),
    let bytes := b :: rest
    (∀ h : b.toNat < 4,
      s.performAction (actionWord 0 bytes) = s.startStrand ⟨b.toNat, h⟩ ∧
      s.performAction (actionWord 1 bytes) = s.stopStrand ⟨b.toNat, h⟩ ∧
      s.performAction (actionWord 2 bytes) = s.cutEvent ⟨b.toNat, h⟩) ∧
    (4 ≤ b.toNat → ∀ n : Fin 7, n < 3 → s.performAction (actionWord n bytes) = s) ∧
    (∀ h : b.toNat < 16, s.performAction (actionWord 3 bytes) = s.restartHead ⟨b.toNat, h⟩) ∧
    (16 ≤ b.toNat → s.performAction (actionWord 3 bytes) = s) ∧
    s.performAction (actionWord 4 bytes) = s.releaseTiles (BitVec.ofNat 64 (leNat bytes)) ∧
    s.performAction (actionWord 5 bytes) = s.acknowledge (BitVec.ofNat 16 (leNat (bytes.take 2))) ∧
    s.performAction (actionWord 6 bytes) = s.ackView b) ∧
  ∀ s : State, s.resetLow = false → s.path.controlInFlight = none →
    (∀ k : Fin 4,
      (s.part = .run → (s.unit k).state = .idle → (s.settings k).ok = true →
        Answers (.strandStart (BitVec.ofNat 8 k.val)) s (s.opened.startStrand k)) ∧
      ((s.unit k).state = .casting ∨ (s.unit k).state = .held →
        Answers (.strandStop (BitVec.ofNat 8 k.val)) s (s.opened.stopStrand k) ∧
        Answers (.cutNow (BitVec.ofNat 8 k.val)) s (s.opened.cutEvent k))) ∧
    (∀ k : Fin 16, (s.face k).head.state = .off →
      Answers (.headRestart (BitVec.ofNat 8 k.val)) s (s.opened.restartHead k)) ∧
    (∀ mask, Answers (.releaseTiles mask) s (s.opened.releaseTiles mask)) ∧
    (∀ mask, Answers (.ackCauses mask) s (s.opened.acknowledge mask)) ∧
    ∀ mask, Answers (.ackView mask) s (s.opened.ackView mask)

/-- The hold timer of an ID's front write expires (R14, R159): every copy slot that protects a line the write touches is aborted
with outcome OVERRUN, then the release step is made, which releases the write, then transactions presented that can be taken are
(R2). An abort (R164): the slot's outcome is fixed, a read of it that waits with the engine is withdrawn, and its header is made,
behind what the engine has waiting. The count of the outcome rises by one for each slot aborted, at this event or at the answer of
its header: which of the two is left free (log 14). Every other slot and every tile stays as it was. The release step (R13, R14):
of each ID in arrival order, the front writes that touch no protected line join the forwarding queue and their records become
WAITING, until no such front is left; a write that has become a front has its timer started, HoldLimit from now; nothing else but
free choices changes, where the writes held have each their own number, as in the invariant of EveryStepKeepsTheInvariant. That
the time base moves to the expiry (log 4), that several slots are aborted in ascending number (log 38), and that the writes
released join the forwarding queue before the transactions taken (log 36), are the model's choices. An ID whose front write has no
timer running, or that has no held write, has no such event: that the command then changes nothing is the model's choice (log 6).
-/
def Obligations.HoldLimitExpiryReleasesTheFront : Prop :=
  (∀ (s : State) (id : Id), s.resetLow = false →
    (∀ h, (s.fronts.find? fun x => x.id == id) = some h → h.expiry = none) → Answers (.holdLimitExpiry id) s s.opened) ∧
  (∀ (s : State) (id : Id) (h : HeldWrite) (d : Nat),
    s.resetLow = false → (s.fronts.find? fun x => x.id == id) = some h → h.expiry = some d →
    let hit (i : Fin 4) : Bool := match h.window with
      | none => false
      | some w => s.slotMet i w h.offset h.count
    let met : Nat := ((List.finRange 4).filter hit).length
    let aborted := ((List.finRange 4).filter hit).foldl (fun u i => u.abortSlot i .overrun)
      { s.opened with timeBase := max s.timeBase d }
    Answers (.holdLimitExpiry id) s aborted.releaseStep.takePresented ∧ aborted.heldMeets h = false ∧
    (s.nothingPresented → ∃ t, exec (.holdLimitExpiry id) s = .next t ∧
      t.timeBase = max s.timeBase d ∧
      (∀ i, hit i = true →
        (t.slot i).outcome = some .overrun ∧ (t.slot i).state = (s.slot i).state ∧ (t.slot i).tile = (s.slot i).tile) ∧
      (∀ i, hit i = false → t.slot i = s.slot i) ∧
      (∀ i, t.tile i = s.tile i) ∧
      (s.evidence.overrun + met ≤ 0xFFFFFFFF →
        t.evidence.overrun = if Config.countsAtAbort then s.evidence.overrun + met else s.evidence.overrun) ∧
      (∀ x ∈ t.path.held, x.seq ≠ h.seq) ∧ (h.seq, 0) ∈ t.path.forwarding ∧
      (∀ r ∈ t.path.table, r.seq = h.seq → r.disposition = .waiting) ∧
      t.shadow = s.shadow ∧ t.strands = s.strands ∧ t.faces = s.faces ∧ t.tracks = s.tracks ∧ t.lineQueue = s.lineQueue ∧
      t.assemblers = s.assemblers ∧ t.part = s.part ∧ t.ring = s.ring ∧ t.causes.pending = s.causes.pending)) ∧
  (∀ (s : State) (i : Fin 4) (o : Machine.Outcome), (o = .overrun ∨ o = .aborted) →
    let z := s.slot i
    let live : Prop := (z.state = .queued ∨ z.state = .copying) ∧ z.outcome = none
    let e := s.evidence
    (¬live → s.abortSlot i o = s) ∧
    (live → s.abortSlot i o =
      State.engineMake
        { s with
          own := { s.own with engine := s.own.engine.filter fun x => !x.tag.readsFor i }
          evidence := { e with
            slots := vset e.slots i { z with outcome := some o }
            overrun :=
              if o = .overrun ∧ Config.countsAtAbort = true then min (e.overrun + 1) 0xFFFFFFFF else e.overrun
            aborted :=
              if o = .aborted ∧ Config.countsAtAbort = true then min (e.aborted + 1) 0xFFFFFFFF else e.aborted } }
        { tag := .tileHeader i
          addr := BitVec.ofNat 40 (s.globals.evidenceBase + z.tile.val * (65536 * 2 ^ s.globals.tileSizeLog))
          count := 64, data := tileHeader z o })) ∧
  (∀ (i : Fin 4) (g : OwnTag), g.readsFor i = true ↔ ∃ n, g = .ringRead i n) ∧
  (∀ s : State, (s.path.held.map (·.seq)).Nodup →
    let t := s.releaseStep
    let due := s.timeBase + s.globals.holdLimit
    ∃ l : List HeldWrite,
      let stay := s.path.held.filter fun h => !l.contains h
      (l.map (·.seq)).Nodup ∧ (∀ h ∈ l, h ∈ s.path.held ∧ s.heldMeets h = false) ∧
      (∀ i : Id, (l.filter fun h => h.id == i) ++ (stay.filter fun h => h.id == i) =
        s.path.held.filter fun h => h.id == i) ∧
      (∀ h ∈ frontsFrom [] stay, s.heldMeets h = true) ∧
      t = { s with
        choiceNumber := t.choiceNumber
        path := { s.path with
          forwarding := s.path.forwarding ++ l.map fun h => (h.seq, 0)
          table := s.path.table.map fun r =>
            if r.seq ∈ l.map (·.seq) then { r with disposition := .waiting } else r
          held := stay.map fun h =>
            if h.expiry = none ∧ h ∈ frontsFrom [] stay then { h with expiry := some due } else h } }) ∧
  ∀ (l : List HeldWrite) (h : HeldWrite),
    h ∈ frontsFrom [] l ↔ ∃ before behind, l = before ++ h :: behind ∧ ∀ x ∈ before, x.id ≠ h.id

/-- The events of a head (R37, R39, R40, R42, R43). An error event: in ACTIVE and PASSIVE the counter rises by 8 to at most 256
and the state follows it, in RECOVERING the head returns to OFF with counter 256, elsewhere nothing changes; HEAD is raised at
96, at an entry to PASSIVE and at OFF. A head that does not enter OFF from ACTIVE or PASSIVE changes nothing else; one that
does then interrupts its face, suspends its model and tells the strand that the face is not covered. A good-line event: in ACTIVE
and PASSIVE the counter falls by 1, not below 0, the state follows it and the warning ends at 0; in RECOVERING the good run
grows, and at 64 lines the head becomes ACTIVE with counter 0 and its reason to suspend the model ends; elsewhere nothing
changes. A change of the head marks the face's block (R39). The interruption of a face (R98): its OPEN tracks close INTERRUPTED, in
ascending order of first travel and then of entry number, each whole before the next; then its stale count becomes its queued
count. -/
def Obligations.HeadFollowsTheCounter : Prop :=
  (∀ (s : State) (k : Fin 16),
    let h := (s.face k).head
    let e := min (h.errors + 8) 256
    (((h.state = .off ∨ h.state = .disabled) → s.headError k = s) ∧
     (h.state = .recovering →
       State.Settles
         ({ s with
             faces := vset s.faces k
               { s.face k with head := { state := .off, errors := 256, warning := true, goodRun := 0 } } }.withCause .head)
         (s.headError k) ∧
       ((s.headError k).mark (faceBlock k)).dirty = true) ∧
     ((h.state = .active ∨ h.state = .passive) → h.errors + 8 < 256 →
       State.Settles
         (let x := { s.face k with
            head := { h with
               errors := e, state := if 128 ≤ e then .passive else .active
               warning := h.warning || decide (h.errors < 96 ∧ 96 ≤ e) } }
          let b : State := { s with faces := vset s.faces k x }
          if (h.errors < 96 ∧ 96 ≤ e) ∨ (h.state = .active ∧ 128 ≤ e) then b.withCause .head else b)
         (s.headError k) ∧
       ((s.headError k).mark (faceBlock k)).dirty = true) ∧
     ((h.state = .active ∨ h.state = .passive) → 256 ≤ h.errors + 8 →
       let x := { s.face k with head := { h with errors := 256, state := .off, warning := true } }
       let b := State.markFace { s with faces := vset s.faces k x } k
       let i := (b.raise .head).interruptFace k
       s.headError k = (i.setModel k ((i.face k).model.suspend false)).uncoverFace k ∧
       ((s.headError k).unit (strandOf k)).covered.getLsbD (faceIn k).val = false)) ∧
    ((h.state = .off ∨ h.state = .disabled) → s.headGood k = s) ∧
    ((h.state = .active ∨ h.state = .passive) → h.errors ≤ 256 →
      State.Settles
        { s with
          faces := vset s.faces k
            { s.face k with
              head := { h with
                errors := h.errors - 1, state := if 129 ≤ h.errors then .passive else .active
                warning := h.warning && decide (2 ≤ h.errors) } } }
        (s.headGood k) ∧
      (((s.headGood k).face k).head ≠ h → ((s.headGood k).mark (faceBlock k)).dirty = true)) ∧
    (h.state = .recovering →
      ((s.headGood k).mark (faceBlock k)).dirty = true ∧
      (h.goodRun ≠ 63 →
        State.Settles { s with faces := vset s.faces k { s.face k with head := { h with goodRun := h.goodRun + 1 } } }
          (s.headGood k)) ∧
      (h.goodRun = 63 →
        State.Settles
          { s with
            faces := vset s.faces k
              { s.face k with
                head := { h with state := .active, errors := 0, goodRun := 64 }
                model := (s.face k).model.resume false } }
          (s.headGood k)))) ∧
  ∀ (s : State) (k : Fin 16),
    let c := (s.openWhere fun t => t.face == k).foldl (fun u x => u.closeEntry x.1 false true) s
    s.interruptFace k =
      { c with faces := vset c.faces k { c.face k with staleCount := (c.face k).queuedCount } }

/-! ### Strand travel and cuts (R47 to R64) -/

/-- A pulse accepted in CASTING or HELD with the comparator disarmed or not met: travel advances, the last pulse time is
set, the hold timer restarts and a HELD strand becomes CASTING (R51, R52, R56). One that meets the armed comparator's point makes
a cut event besides, and the comparator moves on: disarmed with CutPeriod 0 or past the greatest travel, CutPeriod further
otherwise (R56). A pulse sooner than MinPulseInterval after the last accepted one counts a glitch and raises GLITCH; in IDLE
and STOPPING a pulse is ignored (R51). That the time base moves to the pulse's own reading is the model's choice (log 4).
The advance of one accepted pulse never lowers the travel, carries the fraction exactly, and stays at the greatest travel
with fraction 65535 once there (R52). -/
def Obligations.EncoderPulseAdvancesTheTravel : Prop :=
  (∀ (s : State) (k : Fin 4) (at_ : Nat), s.resetLow = false →
    let u := s.unit k
    let x := s.settings k
    let now := max s.timeBase at_
    let sum := u.fraction + x.incFrac
    let carry := if 65536 ≤ sum then 1 else 0
    let next := u.travel + x.incInt + carry
    let travel := if 2 ^ 40 - 1 < next then 2 ^ 40 - 1 else next
    let moved : State :=
      { State.withStrand s.opened k
          { s.strand k with unit := { u with
              travel := travel
              fraction := if 2 ^ 40 - 1 < next then 65535 else sum - 65536 * carry
              lastPulse := some now
              holdTimer := some (now + 1000 * x.holdTime)
              state := .casting } } with timeBase := now }
    ((u.state = .casting ∨ u.state = .held) → u.fraction ≤ 65535 →
      (∀ p, u.lastPulse = some p → x.minPulseInterval ≤ now - p) →
      ((∀ p, u.comparator = some p → travel < p) → Answers (.encoderPulse k at_) s moved) ∧
      ∀ p, u.comparator = some p → p ≤ travel →
        let c := moved.cutEvent k
        Answers (.encoderPulse k at_) s
          (c.setUnit k { c.unit k with
            comparator :=
              if x.cutPeriod = 0 ∨ 2 ^ 40 - 1 < p + x.cutPeriod then none else some (p + x.cutPeriod) })) ∧
    ((u.state = .idle ∨ u.state = .stopping) → Answers (.encoderPulse k at_) s { s.opened with timeBase := now }) ∧
    ((u.state = .casting ∨ u.state = .held) → ∀ p, u.lastPulse = some p → now - p < x.minPulseInterval →
      Answers (.encoderPulse k at_) s
        (({ State.withStrand s.opened k
            { s.strand k with unit := { u with glitches := min (u.glitches + 1) 0xFFFFFFFF } }
          with timeBase := now }).withCause .glitch))) ∧
  ∀ (x : StrandSettings) (u : StrandUnit), u.travel ≤ 2 ^ 40 - 1 → u.fraction ≤ 65535 →
    let v := u.advance x
    u.travel * 65536 + u.fraction ≤ v.travel * 65536 + v.fraction ∧
    v.travel ≤ 2 ^ 40 - 1 ∧ v.fraction ≤ 65535 ∧
    (u.travel + x.incInt + (u.fraction + x.incFrac) / 65536 ≤ 2 ^ 40 - 1 →
      v.travel * 65536 + v.fraction = u.travel * 65536 + u.fraction + x.incInt * 65536 + x.incFrac) ∧
    (u.travel = 2 ^ 40 - 1 → u.fraction = 65535 → (x.incInt ≠ 0 ∨ x.incFrac ≠ 0) →
      v.travel = 2 ^ 40 - 1 ∧ v.fraction = 65535)

/-- A cut event that R57 does not reject, wherever it comes from, and from the cut line (CutSource LINE or BOTH) or from CUT NOW:
the last boundary and the pending boundary become b, the accepted-cut count rises, and the boundary marker joins the Line Result
Queue (R55, R58). CUT NOW is checked and answered OKAY at one event (the model's reading, log 7). -/
def Obligations.CutIsAccepted : Prop :=
  ∀ (s : State) (k : Fin 4) (c : Instr),
    let u := s.unit k
    let x := s.settings k
    let b := u.travel - x.torchDistance
    let after (o : State) : State :=
      { State.withStrand o k
          { s.strand k with unit := { u with
              lastBoundary := b, boundarySeen := true, pendingBoundary := some b
              acceptedCuts := min (u.acceptedCuts + 1) 0xFFFFFFFF } }
        with lineQueue := s.lineQueue ++ [.boundary k b] }
    (u.state = .casting ∨ u.state = .held) → x.torchDistance ≤ u.travel → u.lastBoundary < b →
    (u.boundarySeen = true → x.minBilletLength ≤ b - u.lastBoundary) → u.pendingBoundary = none →
    State.Settles (after s) (s.cutEvent k) ∧
    ((c = .cutLineEdge k ∧ (x.cutSource = 1 ∨ x.cutSource = 3) ∨
        c = .cutNow (BitVec.ofNat 8 k.val) ∧ s.path.controlInFlight = none) →
      s.resetLow = false → Answers c s (after s.opened))

/-- A cut event that meets a condition of R57 is rejected with the reason of the first that holds, wherever it comes from, and
from the cut line (CutSource LINE or BOTH) or from CUT NOW: the rejected-cut count rises, the reason is kept, CUT-REJECT is raised,
the strand's block is marked and nothing else changes. An edge of CUT_s with CutSource NONE or COMPARATOR makes no cut event
(R55). CUT NOW is checked and answered OKAY at one event (the model's reading, log 7); it is stated here for CASTING and HELD. -/
def Obligations.CutIsRejected : Prop :=
  (∀ (s : State) (k : Fin 4) (r : Reject) (c : Instr),
    let u := s.unit k
    let x := s.settings k
    let b := u.travel - x.torchDistance
    let casting : Prop := u.state = .casting ∨ u.state = .held
    let after (o : State) : State :=
      (State.withStrand o k
        { s.strand k with unit := { u with
            rejectedCuts := min (u.rejectedCuts + 1) 0xFFFFFFFF, lastReject := r } }).withCause .cutReject
    (¬casting ∧ r = .stateForbids ∨
     casting ∧
      (u.travel < x.torchDistance ∧ r = .shortTravel ∨
       x.torchDistance ≤ u.travel ∧
        (b ≤ u.lastBoundary ∧ r = .notAfter ∨
         u.lastBoundary < b ∧
          (u.boundarySeen = true ∧ b - u.lastBoundary < x.minBilletLength ∧ r = .shortBillet ∨
           (u.boundarySeen = false ∨ x.minBilletLength ≤ b - u.lastBoundary) ∧ u.pendingBoundary ≠ none ∧
            r = .pending)))) →
    State.Settles (after s) (s.cutEvent k) ∧ ((s.cutEvent k).mark (strandBlock k)).dirty = true ∧
    ((c = .cutLineEdge k ∧ (x.cutSource = 1 ∨ x.cutSource = 3) ∨
        c = .cutNow (BitVec.ofNat 8 k.val) ∧ s.path.controlInFlight = none ∧ casting) →
      s.resetLow = false → ∃ t, exec c s = .next t ∧ State.Settles (after s.opened) t ∧ s.noted t (strandBlock k))) ∧
  ∀ (s : State) (k : Fin 4), s.resetLow = false → (s.settings k).cutSource ≠ 1 → (s.settings k).cutSource ≠ 3 →
    Answers (.cutLineEdge k) s s.opened

/-- At the expiry of the hold timer a CASTING strand becomes HELD, its held count rises, HELD is raised, its predictor is
told of the halt, and the timer is stopped (R53, R118). At the expiry of a running alert timer ALERT_s deasserts and the timer
stops (R132); at the expiry of the status period timer it restarts one StatusPeriod on, and every block with its periodic mark set
is marked: dirty, or written at the event (R181). That the time base moves to the expiry, and the period counts on from there, is
the model's choice (log 4). -/
def Obligations.TimerExpiriesTakeEffect : Prop :=
  (∀ (s : State) (k : Fin 4) (d : Nat), s.resetLow = false → (s.unit k).state = .casting →
     (s.unit k).holdTimer = some d →
     Answers (.holdTimerExpiry k) s
       (({ State.withStrand s.opened k
           { s.strand k with
             unit := { s.unit k with
               state := .held, holdTimer := none, heldCount := min ((s.unit k).heldCount + 1) 0xFFFFFFFF }
             predictor := { s.predictor k with haltMark := true } }
         with timeBase := max s.timeBase d }).withCause .held)) ∧
  (∀ (s : State) (k : Fin 4) (d : Nat), s.resetLow = false → (s.billet k).alertTimer = some d →
    Answers (.alertTimerExpiry k) s
      { State.withStrand s.opened k
          { s.strand k with billet := { s.billet k with alert := false, alertTimer := none } }
        with timeBase := max s.timeBase d }) ∧
  ∀ (s : State) (d : Nat), s.resetLow = false → s.statusTimer = some d →
    ∃ t, exec .statusPeriodExpiry s = .next t ∧
      State.Settles
        { s.opened with
          timeBase := max s.timeBase d
          statusTimer := some (max s.timeBase d + 1000 * s.globals.statusPeriod) } t ∧
      ∀ b, (s.mark b).periodic = true → s.noted t b

/-- STRAND START of an IDLE strand in RUN whose settings are in range: the strand becomes CASTING with travel 0, its fields,
counters, gap list, predictor and billet record set as R48, R115, R140 and R149 give them, and the models of its faces are
told (R69). The view level, the VIEW flag, the published bank, the Hold List and the alert stay. STRAND STOP of a CASTING or HELD
strand: it becomes STOPPING with the travel as its final boundary, the hold timer stops, the comparator is disarmed, the open gaps
close, and the stop marker is queued, or owed while the strand's boundary marker holds the place (R49, R60). The write is checked
and answered OKAY at one event (the model's reading, log 7). -/
def Obligations.StrandStartAndStop : Prop :=
  (∀ (s : State) (k : Fin 4),
    let x := s.settings k
    s.resetLow = false → s.path.controlInFlight = none → s.part = .run → (s.unit k).state = .idle → x.ok = true →
    Answers (.strandStart (BitVec.ofNat 8 k.val)) s
      (State.onFaces k State.startModel
        (State.withStrand s.opened k
          { unit :=
              { state := .casting, travel := 0, fraction := 0, lastPulse := none
                holdTimer := some (s.timeBase + 1000 * x.holdTime)
                comparator := if x.cutSource = 2 ∨ x.cutSource = 3 then some x.cutAt else none
                lastBoundary := 0, boundarySeen := false, pendingBoundary := none, stopMarker := none
                billetNumber := BitVec.ofNat 32 x.startBillet
                viewActive := (s.unit k).viewActive, viewSettled := (s.unit k).viewSettled
                viewFlag := (s.unit k).viewFlag
                watched := s.enabledFaces k, covered := 0
                gaps := if s.enabledFaces k = 0 then [] else [{ mask := s.enabledFaces k, start := 0, upTo := none }]
                glitches := 0, heldCount := 0, acceptedCuts := 0, rejectedCuts := 0, viewBlocked := 0, gapMerges := 0
                lastReject := .noReject }
            predictor :=
              { Predictor.reset with
                state := .seeking, pitch := x.nominalPitch * 256, pulseTravel := (s.predictor k).pulseTravel
                pulseFraction := (s.predictor k).pulseFraction }
            billet :=
              { s.billet k with
                headBoundary := 0, firstPending := true, working := .cleared, tally := .zero, findings := 0, listed := 0
                unlisted := 0, alerts := 0, publishedCount := 0, unpublishedCount := 0, discardedHolds := 0
                billetsClosed := 0 } }))) ∧
  (∀ (s : State) (k : Fin 16),
    let m := (s.face k).model
    s.startModel k = { s with faces := vset s.faces k { s.face k with model :=
      if m.state = .warmUp ∨ m.state = .ready then
        { m with lastStamp := none, state := .warmUp, warmUp := 0, forView := false, forHead := false }
      else { m with lastStamp := none } } }) ∧
  ∀ (s : State) (k : Fin 4),
    let u := s.unit k
    let stopped (p : StopPhase) : Strand :=
      { s.strand k with unit := { u with
          state := .stopping, holdTimer := none, comparator := none
          gaps := u.gaps.map fun g => if g.upTo = none then { g with upTo := some u.travel } else g
          stopMarker := some (p, u.travel) } }
    s.resetLow = false → s.path.controlInFlight = none → (u.state = .casting ∨ u.state = .held) →
    Answers (.strandStop (BitVec.ofNat 8 k.val)) s
      (if holdsBoundary k s.lineQueue then State.withStrand s.opened k (stopped .owed)
       else { State.withStrand s.opened k (stopped .queued) with lineQueue := s.lineQueue ++ [.stop k u.travel] })

/-- Coverage notices and the gap list of a strand (R63, R64). A notice that a face is not covered clears its covered mark and, in
CASTING and HELD, makes it watched; unless it lies in an open entry it is placed in the list: in the last entry, opened again, when
that began at this travel; in a new open entry when the list holds fewer than 8; in the last entry, opened again and a merge
counted, otherwise. A notice that a face is covered sets its mark and, in CASTING and HELD, closes at this travel every open entry
whose faces are then all covered. In IDLE and STOPPING the list does not change. A notice that changes the strand's fields marks its
block. At a billet close (R65, R144) the faces lost are those of the entries that begin below the tail and are open or end at the
head or beyond, and the entries kept are the open ones and those that end at the tail or beyond. -/
def Obligations.CoverageKeepsTheGapList : Prop :=
  (∀ (s : State) (k : Fin 16),
    let j := strandOf k
    let out := (s.unit j).uncover (faceIn k)
    let seen := (s.unit j).cover (faceIn k)
    State.Settles (State.withStrand s j { s.strand j with unit := out }) (s.uncoverFace k) ∧
    (out ≠ s.unit j → ((s.uncoverFace k).mark (strandBlock j)).dirty = true) ∧
    State.Settles (State.withStrand s j { s.strand j with unit := seen }) (s.coverFace k) ∧
    (seen ≠ s.unit j → ((s.coverFace k).mark (strandBlock j)).dirty = true)) ∧
  (∀ (head tail : Nat) (l : List GapEntry),
    (∀ f : Fin 4, (lostFaces head tail l).getLsbD f.val = true ↔
      ∃ g ∈ l, g.mask.getLsbD f.val = true ∧ g.start < tail ∧ ∀ e, g.upTo = some e → head ≤ e) ∧
    keptGaps tail l = l.filter fun g => match g.upTo with
      | none => true
      | some e => decide (tail ≤ e)) ∧
  ∀ (u : StrandUnit) (f : Fin 4),
    let mask : BitVec 4 := BitVec.ofNat 4 (2 ^ f.val)
    let casting : Prop := u.state = .casting ∨ u.state = .held
    let out : StrandUnit := { u with covered := u.covered &&& ~~~mask }
    let seen : StrandUnit := { out with watched := u.watched ||| mask }
    let inOpen : Prop := ∃ g ∈ u.gaps, g.upTo = none ∧ g.mask.getLsbD f.val = true
    let joined (g : GapEntry) : GapEntry := { g with mask := g.mask ||| mask, upTo := none }
    let now : BitVec 4 := u.covered ||| mask
    (¬casting → u.uncover f = out ∧ u.cover f = { u with covered := now }) ∧
    (casting → inOpen → u.uncover f = seen) ∧
    (∀ before g, casting → ¬inOpen → u.gaps = before ++ [g] → g.start = u.travel →
      u.uncover f = { seen with gaps := before ++ [joined g] }) ∧
    (casting → ¬inOpen → u.gaps.length < 8 → (∀ before g, u.gaps = before ++ [g] → g.start ≠ u.travel) →
      u.uncover f = { seen with gaps := u.gaps ++ [{ mask := mask, start := u.travel, upTo := none }] }) ∧
    (∀ before g, casting → ¬inOpen → u.gaps = before ++ [g] → 8 ≤ u.gaps.length → g.start ≠ u.travel →
      u.uncover f =
        { seen with gaps := before ++ [joined g], gapMerges := min (u.gapMerges + 1) 0xFFFFFFFF }) ∧
    (casting → u.cover f =
      { u with
        covered := now
        gaps := u.gaps.map fun g =>
          if g.upTo = none ∧ ∀ j : Fin 4, g.mask.getLsbD j.val = true → now.getLsbD j.val = true then
            { g with upTo := some u.travel }
          else g })

/-- VIEWBLK_s held at a level from one reading to another (R61, R62, R70, R71). The view level takes the level 1 ms after the
change, counted from its own last change at the earliest; held for less, nothing changes. An edge to ACTIVE: the VIEW flag becomes
SET, VIEW is raised, the count rises and the models of the strand's faces are suspended for the view, a READY one with the notice
that its face is not covered. An edge to INACTIVE: an ACKED flag clears and the models resume. The level already held changes
nothing but the time. The time base moves to the instant 1 ms after the change where the input was held so long, whether or not
the level is a new one, and to the last reading where it was not; that, and that the input is given with the readings it was held
at, is the model's choice (log 5). A model that is not DISABLED takes a reason to suspend it; one from which the last reason goes
returns to WARMUP from count 0. -/
def Obligations.ViewEdgeMovesTheModels : Prop :=
  (∀ (s : State) (k : Fin 4) (level : ViewLevel) (since upTo : Nat), s.resetLow = false →
    let u := s.unit k
    let due := max since u.viewSettled + 1000
    let now := max s.timeBase due
    let at_ (t : Nat) : State := { s.opened with timeBase := max s.timeBase t }
    (upTo < due → Answers (.viewLevelEdge k ⟨level, since, upTo⟩) s (at_ upTo)) ∧
    (due ≤ upTo → u.viewActive = false → level = .active → Answers (.viewLevelEdge k ⟨level, since, upTo⟩) s
      (State.onFaces k State.suspendForView
        ((State.withStrand (at_ due) k
          { s.strand k with unit := { u with
              viewActive := true, viewSettled := now, viewFlag := .set
              viewBlocked := min (u.viewBlocked + 1) 0xFFFFFFFF } }).withCause .view))) ∧
    (due ≤ upTo → u.viewActive = true → level = .inactive → Answers (.viewLevelEdge k ⟨level, since, upTo⟩) s
      (State.onFaces k State.resumeForView
        (State.withStrand (at_ due) k
          { s.strand k with unit := { u with
              viewActive := false, viewSettled := now
              viewFlag := if u.viewFlag = .acked then .clear else u.viewFlag } }))) ∧
    (due ≤ upTo → (u.viewActive = true ↔ level = .active) →
      Answers (.viewLevelEdge k ⟨level, since, upTo⟩) s (at_ due))) ∧
  (∀ (s : State) (k : Fin 16),
    let x := s.face k
    let suspended : State := { s with faces := vset s.faces k { x with model := x.model.suspend true } }
    (x.model.state = .ready → s.suspendForView k = suspended.uncoverFace k) ∧
    (x.model.state ≠ .ready → s.suspendForView k = suspended) ∧
    s.resumeForView k = { s with faces := vset s.faces k { x with model := x.model.resume true } }) ∧
  ∀ (m : Model) (view : Bool),
    (m.state = .disabled → m.suspend view = m) ∧
    (m.state ≠ .disabled → m.suspend view =
      { m with
        state := .suspended
        forView := if view then true else m.forView
        forHead := if view then m.forHead else true }) ∧
    (m.state ≠ .suspended → m.resume view = m) ∧
    (m.state = .suspended →
      ((if view then m.forHead else m.forView) = true → m.resume view =
        { m with forView := if view then false else m.forView, forHead := if view then m.forHead else false }) ∧
      ((if view then m.forHead else m.forView) = false → m.resume view =
        { m with state := .warmUp, warmUp := 0, forView := false, forHead := false }))

/-! ### The predictor (R115 to R122) -/

/-- An oscillation pulse by the strand's state (R116, R117): ignored while the predictor is OFF and in STOPPING; recorded
with the halt mark in HELD; in CASTING measured, a usable measurement entering the pitch, and recorded. -/
def Obligations.OscillationPulseMeasuresThePitch : Prop :=
  ∀ (s : State) (k : Fin 4), s.resetLow = false →
    let u := s.unit k
    let x := s.settings k
    let p := s.predictor k
    let m := (u.travel * 65536 + u.fraction - (p.pulseTravel * 65536 + p.pulseFraction)) / 256
    let seen : Predictor := { p with
      pulses := min (p.pulses + 1) 0xFFFFFFFF, pulseTravel := u.travel, pulseFraction := u.fraction, pulseValid := true }
    let after (q : Predictor) : Prop :=
      Answers (.oscillationPulse k) s (State.withStrand s.opened k { s.strand k with predictor := q })
    ((p.state = .off ∨ u.state = .stopping) → Answers (.oscillationPulse k) s s.opened) ∧
    (p.state ≠ .off → u.state = .held → after { seen with haltMark := true }) ∧
    (p.state ≠ .off → u.state = .casting → p.pulseValid = false → after { seen with haltMark := false }) ∧
    (p.state ≠ .off → u.state = .casting → p.pulseValid = true → p.haltMark = true →
      after { seen with haltMark := false, haltDiscards := min (p.haltDiscards + 1) 0xFFFFFFFF }) ∧
    (p.state ≠ .off → u.state = .casting → p.pulseValid = true → p.haltMark = false →
      x.pitchMin * 256 ≤ m → m ≤ x.pitchMax * 256 →
      after { seen with pitch := (3 * p.pitch + m) / 4, pitchUsed := min (p.pitchUsed + 1) 0xFFFFFFFF }) ∧
    (p.state ≠ .off → u.state = .casting → p.pulseValid = true → p.haltMark = false →
      (m < x.pitchMin * 256 ∨ x.pitchMax * 256 < m) →
      after { seen with pitchRejected := min (p.pitchRejected + 1) 0xFFFFFFFF })

/-- A stamp handed to the Mark Predictor (R92, R121, R122). OFF and SEEKING ignore it; LOCKED and COASTING take a miss while it
lies beyond the next mark by more than Tolerance plus Gap: the last mark becomes the next, the next mark moves a whole pitch on,
the misses are counted and the state becomes COASTING, until the miss count reaches MissLimit: then the lock is lost, which counts
it, makes the state SEEKING with no candidate, raises MARK-LOST, marks the strand's block and ends the stamp's misses. Every
change that a stamp makes to the record is to published fields, and marks the strand's block where it is made (R113, R125). -/
def Obligations.PredictorMissesAndLosesLock : Prop :=
  (∀ (x : StrandSettings) (t : Nat) (p : Predictor),
    let holding : Prop := p.state = .locked ∨ p.state = .coasting
    let late : Prop := p.nextMark + x.tolerance + x.gap < t
    let missed : Predictor := { p with
      lastMark := p.nextMark, nextMark := p.nextMark + (p.pitch + 128) / 256, missCount := p.missCount + 1
      misses := min (p.misses + 1) 0xFFFFFFFF, state := .coasting }
    (¬(holding ∧ late) → p.stamp x t = p) ∧
    (holding → late → p.missCount + 1 < x.missLimit → p.stamp x t = missed.stamp x t) ∧
    (holding → late → 1 ≤ x.missLimit → x.missLimit ≤ p.missCount + 1 → p.stamp x t =
      { missed with state := .seeking, candidate := none, lockLosses := min (p.lockLosses + 1) 0xFFFFFFFF })) ∧
  ∀ (s : State) (k : Fin 4) (t : Nat),
    let p := s.predictor k
    let q := p.stamp (s.settings k) t
    let b := State.withStrand s k { s.strand k with predictor := q }
    let marked := if q = p then b else b.markStrand k
    let lost : Prop := (p.state = .locked ∨ p.state = .coasting) ∧ q.state = .seeking
    (lost → State.Settles (b.withCause .markLost) (s.stampPredictor k t) ∧
      ((s.stampPredictor k t).mark (strandBlock k)).dirty = true) ∧
    (¬lost → s.stampPredictor k t = marked)

/-! ### Takings and tracks (R83, R88 to R110, R139 to R147) -/

/-- A result at the head of the queue is discarded when its face has stale results or its strand is neither CASTING nor
HELD: the queued count falls, the stale count falls, the discard is counted, and nothing else changes (R83, R88, R89). -/
def Obligations.TakingDiscardsStaleResults : Prop :=
  ∀ (s : State) (r : LineResult) (rest : List QueueEntry),
    s.resetLow = false → s.nothingPresented → s.lineQueue = .result r :: rest →
    (0 < (s.face r.face).staleCount ∨ (s.unit (strandOf r.face)).state = .idle ∨
      (s.unit (strandOf r.face)).state = .stopping) →
    let x := s.face r.face
    Answers .taking s
      { s.opened with
        lineQueue := rest
        faces := vset s.faces r.face
          { x with
            queuedCount := x.queuedCount - 1
            staleCount := x.staleCount - 1
            tracks := { x.tracks with discardedResults := min (x.tracks.discardedResults + 1) 0xFFFFFFFF } } }

/-- A used result with one segment, of a face with no OPEN track, on a strand whose predictor is OFF or SEEKING, with a FREE entry
in the table: the segment opens a track in the lowest FREE entry (R90, R95). So does a segment of any result, of any face and
state, that must open a track where an entry is FREE, with the fields of R95, and the open-tracks and tracks-opened counts of its
face rise by one. A segment that finds none FREE, whatever the result (R96, R97): the OPEN track of smallest contrast sum, then of
lowest first travel, then of lowest entry number is the victim; with a sum below the segment's peak it is closed EVICTED and
counted, and the segment opens in its entry; with a sum at the peak or above, the segment is dropped, which counts it, raises
TRACK-LIMIT and marks the face's block. An opening marks the block of its face, and a close that of its own (R111). That a face no
window feeds has no edge contact is the model's choice (log 27). -/
def Obligations.TakingOpensATrack : Prop :=
  (∀ (s : State) (r : LineResult) (g : Segment) (rest : List QueueEntry) (e : Fin 64),
    s.resetLow = false → s.nothingPresented → s.lineQueue = .result r :: rest → r.segments = [g] →
    (s.face r.face).staleCount = 0 →
    ((s.unit (strandOf r.face)).state = .casting ∨ (s.unit (strandOf r.face)).state = .held) →
    (∀ i t, s.track i = some t → t.face ≠ r.face) →
    ((s.predictor (strandOf r.face)).state = .off ∨ (s.predictor (strandOf r.face)).state = .seeking) →
    s.track e = none → (∀ i, i < e → s.track i ≠ none) →
    let x := s.face r.face
    let edge : Bool := match s.feeding r.face with
      | none => false
      | some w =>
        let y := s.window w
        [y.firstCell, y.firstCell + 1, y.lastCell - 1, y.lastCell].any fun c => g.first ≤ c && c ≤ g.last
    Answers .taking s
      { s.opened with
        lineQueue := rest
        tracks := vset s.tracks e
          { isOpen := true
            fields :=
              { face := r.face, firstTravel := r.stamp, lastTravel := r.stamp, firstRing := r.ringLine
                lastRing := r.ringLine, minCell := g.first, maxCell := g.last, spanFirst := g.first, spanLast := g.last
                lines := 1, peak := g.peak, sum := g.peak, edge := edge, lowConf := r.lowConf, cutSplit := false } }
        faces := vset s.faces r.face
          { x with
            queuedCount := x.queuedCount - 1
            tracks := { x.tracks with
              openTracks := x.tracks.openTracks + 1
              opened := min (x.tracks.opened + 1) 0xFFFFFFFF
              gapResults := if r.gap then min (x.tracks.gapResults + 1) 0xFFFFFFFF else x.tracks.gapResults } } }) ∧
  (∀ (s : State) (w : Option Window) (r : LineResult) (g : Segment) (e : Fin 64),
    s.track e = none → (∀ i, i < e → s.track i ≠ none) →
    let x := s.face r.face
    let edge : Bool := match w with
      | none => false
      | some y => [y.firstCell, y.firstCell + 1, y.lastCell - 1, y.lastCell].any fun c => g.first ≤ c && c ≤ g.last
    let t : Track :=
      { face := r.face, firstTravel := r.stamp, lastTravel := r.stamp, firstRing := r.ringLine
        lastRing := r.ringLine, minCell := g.first, maxCell := g.last, spanFirst := g.first, spanLast := g.last
        lines := 1, peak := g.peak, sum := g.peak, edge := edge, lowConf := r.lowConf, cutSplit := false }
    newTrack w r g = t ∧
    s.openSegment w r g = State.markFace
      { s with
        tracks := vset s.tracks e { isOpen := true, fields := t }
        faces := vset s.faces r.face
          { x with tracks := { x.tracks with
              openTracks := x.tracks.openTracks + 1, opened := min (x.tracks.opened + 1) 0xFFFFFFFF } } } r.face) ∧
  ∀ (s : State) (w : Option Window) (r : LineResult) (g : Segment) (e : Fin 64) (v : Track),
    (∀ i, s.track i ≠ none) → s.track e = some v →
    (∀ i t, s.track i = some t → v.sum < t.sum ∨ v.sum = t.sum ∧
      (v.firstTravel < t.firstTravel ∨ v.firstTravel = t.firstTravel ∧ e ≤ i)) →
    (v.sum < g.peak →
      let c := s.closeEntry e true false
      let n := (c.face v.face).tracks
      let b : State := { c with
        faces := vset c.faces v.face
          { c.face v.face with tracks := { n with evicted := min (n.evicted + 1) 0xFFFFFFFF } } }
      let m := (b.face r.face).tracks
      s.openSegment w r g = State.markFace
        { b with
          tracks := vset b.tracks e { isOpen := true, fields := newTrack w r g }
          faces := vset b.faces r.face
            { b.face r.face with tracks := { m with
                openTracks := m.openTracks + 1, opened := min (m.opened + 1) 0xFFFFFFFF } } } r.face) ∧
    (g.peak ≤ v.sum →
      let x := s.face r.face
      State.Settles
        (State.withCause
          { s with
            faces := vset s.faces r.face
              { x with tracks := { x.tracks with
                  droppedSegments := min (x.tracks.droppedSegments + 1) 0xFFFFFFFF } } } .trackLimit)
        (s.openSegment w r g) ∧
      ((s.openSegment w r g).mark (faceBlock r.face)).dirty = true)

/-- A used result (R90 to R94). The OPEN tracks of its face whose last travel plus Gap lies below its stamp close, in ascending
order of first travel and then of entry number, each whole before the next; the stamp reaches the predictor; each segment is
matched to the tracks of the face as they then stand, and the tracks that gained segments are extended; the segments that matched
none open tracks, are given an evicted one's entry or are dropped, in order; a GAP is counted. A segment matches a track whose
last span, widened by a cell on each side, it shares a cell with, and extends the one of lowest first travel, then of lowest
number. TAKING of a result that is not discarded is this use, of the queue's rest, with the face's queued count lowered (R83,
R88), after which transactions presented that can be taken are (R2). That a track extended on a face no window feeds gains no edge
contact is the model's choice (log 27). That the GAP of a result with no segment is not counted is the model's reading (log 35),
and that writes released join the forwarding queue before those transactions its choice (log 36). -/
def Obligations.ResultsAgeAndExtendTracks : Prop :=
  (∀ (s : State) (r : LineResult) (rest : List QueueEntry),
    s.resetLow = false → s.lineQueue = .result r :: rest → (s.face r.face).staleCount = 0 →
    ((s.unit (strandOf r.face)).state = .casting ∨ (s.unit (strandOf r.face)).state = .held) →
    let x := s.face r.face
    let o : State := { s.opened with
      lineQueue := rest, faces := vset s.faces r.face { x with queuedCount := x.queuedCount - 1 } }
    Answers .taking s (o.useResult r).takePresented) ∧
  (∀ (s : State) (test : Track → Bool),
    let l := s.openWhere test
    (∀ e t, (e, t) ∈ l ↔ s.track e = some t ∧ test t = true) ∧
    l.Pairwise fun a b =>
      a.2.firstTravel < b.2.firstTravel ∨ a.2.firstTravel = b.2.firstTravel ∧ a.1 < b.1) ∧
  (∀ (s : State) (r : LineResult),
    let strand := strandOf r.face
    let gap := (s.settings strand).gap
    let aged := (s.openWhere fun t => t.face == r.face && decide (t.lastTravel + gap < r.stamp)).foldl
      (fun u x => u.closeEntry x.1 false false) s
    let s2 := aged.stampPredictor strand r.stamp
    let window := (s2.feeding r.face).map s2.window
    let mine := s2.openWhere fun t => t.face == r.face
    let goesTo (g : Segment) : Option (Fin 64) := matchOf gap r.stamp mine g
    let s3 := State.extendTracks window r (r.segments.map fun g => (g, goesTo g)) mine s2
    let s4 := (r.segments.filter fun g => (goesTo g).isNone).foldl (fun u g => u.openSegment window r g) s3
    let n := (s4.face r.face).tracks
    s.useResult r =
      (if r.gap = true ∧ r.segments ≠ [] then
        { s4 with
          faces := vset s4.faces r.face
            { s4.face r.face with tracks := { n with gapResults := min (n.gapResults + 1) 0xFFFFFFFF } } }
      else s4)) ∧
  (∀ (gap stamp : Nat) (l : List (Fin 64 × Track)) (g : Segment),
    let hit (t : Track) : Prop := t.spanFirst ≤ g.last + 1 ∧ g.first ≤ t.spanLast + 1 ∧ stamp - t.lastTravel ≤ gap
    (matchOf gap stamp l g = none ↔ ∀ x ∈ l, ¬hit x.2) ∧
    ∀ e, matchOf gap stamp l g = some e ↔
      ∃ before t behind, l = before ++ (e, t) :: behind ∧ hit t ∧ ∀ x ∈ before, ¬hit x.2) ∧
  (∀ (s : State) (w : Option Window) (r : LineResult) (matched : List (Segment × Option (Fin 64)))
      (l : List (Fin 64 × Track)), (l.map (·.1)).Nodup →
    let gained (e : Fin 64) : List Segment := (matched.filter fun m => m.2 == some e).map (·.1)
    let t := State.extendTracks w r matched l s
    (∀ e y, (e, y) ∈ l → gained e ≠ [] → t.track e = some (y.extend w r (gained e))) ∧
    (∀ e, (∀ y, (e, y) ∉ l) ∨ gained e = [] → t.track e = s.track e) ∧
    t = { s with tracks := t.tracks }) ∧
  ∀ (w : Option Window) (r : LineResult) (gs : List Segment) (t : Track), gs ≠ [] →
    let v := t.extend w r gs
    let firsts := gs.map (·.first)
    let lasts := gs.map (·.last)
    v.lastTravel = r.stamp ∧ v.lastRing = r.ringLine ∧ v.lines = min (t.lines + 1) 65535 ∧
    v.sum = min (t.sum + (gs.map (·.peak)).sum) 16777215 ∧
    ((∀ n ∈ firsts, v.spanFirst ≤ n) ∧ v.spanFirst ∈ firsts) ∧ ((∀ n ∈ lasts, n ≤ v.spanLast) ∧ v.spanLast ∈ lasts) ∧
    v.minCell = min t.minCell v.spanFirst ∧ v.maxCell = max t.maxCell v.spanLast ∧
    ((∀ g ∈ gs, g.peak ≤ v.peak) ∧ t.peak ≤ v.peak ∧ (v.peak = t.peak ∨ ∃ g ∈ gs, v.peak = g.peak)) ∧
    (v.edge = true ↔ t.edge = true ∨ ∃ y, w = some y ∧ ∃ g ∈ gs,
      ∃ c ∈ [y.firstCell, y.firstCell + 1, y.lastCell - 1, y.lastCell], g.first ≤ c ∧ c ≤ g.last) ∧
    v.lowConf = (t.lowConf || r.lowConf) ∧
    v.face = t.face ∧ v.firstTravel = t.firstTravel ∧ v.firstRing = t.firstRing ∧ v.cutSplit = t.cutSplit

/-- The close of a track (R104 to R110): its length, extent and mark-window test give its class by the first row of R107 whose
condition holds, a finding its severity from 1 to 3; a SCALE and an OSC-MARK are counted, the full-width OSC-MARK observed by the
predictor, which marks the strand's block where it changes the record (R113, R125), and a finding is counted, marks the face's
block and is handled to its end with the flags and measures of R110; then the entry becomes FREE and the open-tracks count falls,
which marks the face's block (R111). A finding's key (R127) holds its class in bits 0 to 2, its severity in bits 3 and 4, its
strand, its face within the strand and its five flags. That the source window of a face no window feeds is entry 0 (log 27), and
that the fields of an entry that becomes FREE are zero again (log 40), is the model's choice. -/
def Obligations.CloseMeasuresTheTrack : Prop :=
  (∀ (c : FindingClass) (severity : Nat) (k f : Fin 4) (low evicted interrupted split inWindow : Bool), severity ≤ 3 →
    let key := findingKey c severity k f low evicted interrupted split inWindow
    key.toNat % 8 = (match c with
      | .corner => 1
      | .longitudinal => 2
      | .transverse => 3
      | .markRoot => 4) ∧
    key.toNat / 8 % 4 = severity ∧ key.toNat / 32 % 4 = k.val ∧ key.toNat / 128 % 4 = f.val ∧ key.getLsbD 9 = low ∧
    key.getLsbD 10 = evicted ∧ key.getLsbD 11 = interrupted ∧ key.getLsbD 12 = split ∧ key.getLsbD 13 = inWindow ∧
    key.getLsbD 14 = false ∧ key.getLsbD 15 = false) ∧
  ∀ (s : State) (e : Fin 64) (t : Track) (evicted interrupted : Bool), s.track e = some t →
    let k := strandOf t.face
    let x := s.settings k
    let p := s.predictor k
    let y := s.face t.face
    let n := y.tracks
    let length := t.lastTravel - t.firstTravel
    let extent := t.maxCell + 1 - t.minCell
    let near (c : Nat) : Bool := t.firstTravel ≤ c + x.tolerance && c ≤ t.firstTravel + x.tolerance
    let inWindow : Bool := (p.state == .locked || p.state == .coasting) && (near p.lastMark || near p.nextMark)
    let row1 : Prop := t.edge = true ∧ x.longMin ≤ length
    let row2 : Prop := ¬row1 ∧ x.longMin ≤ length ∧ extent ≤ x.widthMax
    let across : Prop := ¬row1 ∧ ¬row2 ∧ length ≤ x.transMaxLen ∧ x.transMinCells ≤ extent
    let markLike : Prop := x.markSpanCells ≤ extent ∨ inWindow = true
    let counted (m : TrackCounts) : State := { s with faces := vset s.faces t.face { y with tracks := m } }
    let freed (u : State) : State :=
      let m := (u.face t.face).tracks
      State.markFace
        { u with
          tracks := vset u.tracks e { isOpen := false, fields := .zero }
          faces := vset u.faces t.face { u.face t.face with tracks := { m with openTracks := m.openTracks - 1 } } } t.face
    let u := s.closeEntry e evicted interrupted
    u = freed (s.handOn t evicted interrupted) ∧
    (¬row1 ∧ ¬row2 ∧ ¬across → u = freed (counted { n with scales := min (n.scales + 1) 0xFFFFFFFF })) ∧
    (across ∧ markLike ∧ t.peak < x.deepContrast →
      let c := counted { n with oscMarks := min (n.oscMarks + 1) 0xFFFFFFFF }
      u = freed
        (if x.markSpanCells ≤ extent then
          let q := p.observe x.tolerance t.firstTravel
          let observed := State.withStrand c k { s.strand k with predictor := q }
          if q = p then observed else observed.markStrand k
        else c)) ∧
    ∀ c : FindingClass,
      (c = .corner ∧ row1 ∨ c = .longitudinal ∧ row2 ∨ c = .transverse ∧ across ∧ ¬markLike ∨
        c = .markRoot ∧ across ∧ markLike ∧ x.deepContrast ≤ t.peak) →
      let big : Bool := ((c == .corner || c == .longitudinal) && x.sevLength ≤ length) ||
        ((c == .transverse || c == .markRoot) && x.sevWidth ≤ extent)
      let severity := 1 + (if x.sevContrast ≤ t.peak then 1 else 0) + (if big then 1 else 0)
      u = freed
        (((counted { n with findings := min (n.findings + 1) 0xFFFFFFFF }).markFace t.face).handleFinding
          { strand := k, face := faceIn t.face, cls := c, severity := severity, lowConf := t.lowConf, evicted := evicted
            interrupted := interrupted, cutSplit := t.cutSplit, markWindow := inWindow
            key := findingKey c severity k (faceIn t.face) t.lowConf evicted interrupted t.cutSplit inWindow
            filterHit := none, action := .count, firstTravel := t.firstTravel, length := length, minCell := t.minCell
            maxCell := t.maxCell, lines := t.lines, peak := t.peak, evidence := .notAsked, tile := none }
          { window := (s.feeding t.face).getD 0, firstRing := t.firstRing, lastRing := t.lastRing
            lastTravel := t.lastTravel })

/-- A track that a boundary b falls in, first travel below b and last travel at b or beyond, is handed on as the part before b,
last travel b − 1, and goes on in its entry as a new track from b with one line and its peak as its sum, CUT-SPLIT in both; a
split is counted (R100, R101). One that lies wholly before b is closed with no flag (R100). TAKING of a boundary marker: a stop
marker of the strand that is OWED joins the queue and becomes QUEUED (R60, R83); the strand's OPEN tracks of first travel below b
are so treated, in ascending order of first travel and then of entry number, each whole before the next (R100); then b is handed
to the Billet Unit, which starts its close with a new working record and takes entries, where it has no close in hand (R102,
R141); then transactions presented that can be taken are (R2). That writes released join the forwarding queue before those
transactions is the model's choice (log 36). -/
def Obligations.BoundarySplitsAStraddlingTrack : Prop :=
  (∀ (s : State) (b : Nat) (e : Fin 64) (t : Track), t.firstTravel < b → b ≤ t.lastTravel →
    let h := s.handOn { t with lastTravel := b - 1, cutSplit := true } false false
    let n := (h.face t.face).tracks
    s.cutTrack b e t =
      { h with
        tracks := vset h.tracks e
          { isOpen := true, fields := { t with firstTravel := b, lines := 1, sum := t.peak, cutSplit := true } }
        faces := vset h.faces t.face
          { h.face t.face with tracks := { n with splits := min (n.splits + 1) 0xFFFFFFFF } } }) ∧
  (∀ (s : State) (b : Nat) (e : Fin 64) (t : Track), t.lastTravel < b → s.cutTrack b e t = s.closeEntry e false false) ∧
  (∀ (s : State) (k : Fin 4) (b : Nat) (rest : List QueueEntry),
    s.resetLow = false → s.lineQueue = .boundary k b :: rest →
    let u := s.unit k
    let queued (f : Nat) : State :=
      { State.withStrand s.opened k { s.strand k with unit := { u with stopMarker := some (.queued, f) } } with
        lineQueue := rest ++ [.stop k f] }
    let cut (q : State) : State :=
      (q.openWhere fun t => strandOf t.face == k && decide (t.firstTravel < b)).foldl (fun v x => v.cutTrack b x.1 x.2) q
    (∀ f, u.stopMarker = some (.owed, f) → Answers .taking s ((cut (queued f)).handBoundary k b).takePresented) ∧
    ((∀ f, u.stopMarker ≠ some (.owed, f)) →
      Answers .taking s ((cut { s.opened with lineQueue := rest }).handBoundary k b).takePresented)) ∧
  ∀ (s : State) (k : Fin 4) (b : Nat),
    let y := s.billet k
    (y.close ≠ .idle → s.handBoundary k b = s) ∧
    (y.close = .idle → s.handBoundary k b =
      State.continueTaking
        (State.withStrand s k
          { s.strand k with billet := { y with
              close := .taking, inHand := some (.boundary, b), halvesQueued := 0, halvesAnswered := 0
              working :=
                { billetNumber := (s.unit k).billetNumber, first := y.firstPending, final := false, overflow := false
                  coverageLost := false, head := y.headBoundary, tail := b, length := b - y.headBoundary
                  classes := .zero, severity3 := 0, worst := 0, published := 0, unpublished := 0, unlisted := 0
                  evidenceRequested := 0, coverageMask := 0, firstRing := none } } })
        k false)

/-- A boundary marker of a strand with no OPEN track below it, an empty Hold List and room for two writes: the close starts,
its taking ends at once, and the record's two halves join the Own Traffic Queue for the working bank (R100, R102, R141 to
R145). A stop marker of the strand that is OWED joins the line queue's tail and becomes QUEUED (R60, R83). -/
def Obligations.TakingABoundaryStartsTheClose : Prop :=
  ∀ (s : State) (k : Fin 4) (b : Nat) (rest : List QueueEntry),
    let u := s.unit k
    let y := s.billet k
    let lost := lostFaces y.headBoundary b u.gaps
    let w : Working :=
      { billetNumber := u.billetNumber, first := y.firstPending, final := false, overflow := 0 < y.tally.count
        coverageLost := lost != 0, head := y.headBoundary, tail := b, length := b - y.headBoundary
        classes := y.tally.classes, severity3 := 0, worst := y.tally.worst, published := 0, unpublished := 0
        unlisted := y.tally.count, evidenceRequested := 0, coverageMask := lost, firstRing := none }
    let bank := s.bankBase k y.published.other
    let marker : Option (StopPhase × Nat) := match u.stopMarker with
      | some (.owed, f) => some (.queued, f)
      | some (.queued, f) => some (.queued, f)
      | some (.taken, f) => some (.taken, f)
      | none => none
    let joins : List QueueEntry := match u.stopMarker with
      | some (.owed, f) => [.stop k f]
      | some (.queued, _) | some (.taken, _) | none => []
    s.resetLow = false → s.nothingPresented → s.lineQueue = .boundary k b :: rest →
    (∀ i t, s.track i = some t → strandOf t.face = k → b ≤ t.firstTravel) →
    y.close = .idle → y.holdList = [] → s.own.queue.length + s.own.waiters.length ≤ 6 →
    Answers .taking s
      { State.withStrand s.opened k
          { s.strand k with
            unit := { u with gaps := keptGaps b u.gaps, stopMarker := marker }
            billet := { y with
              working := w, tally := .zero, close := .recording, inHand := some (.boundary, b), halvesQueued := 2
              halvesAnswered := 0 } }
        with
        lineQueue := rest ++ joins
        own := { s.own with queue := s.own.queue ++
          [{ tag := .billetHalf k, addr := BitVec.ofNat 40 bank, count := 64, data := billetFirstHalf k w },
           { tag := .billetHalf k, addr := BitVec.ofNat 40 (bank + 64), count := 64, data := billetSecondHalf k w }] } }

/-- The taking of a billet close goes on from the front of the strand's Hold List (R139, R142 to R145, R137). An entry below the
tail is counted in the working record and leaves the pool: of action COUNT, no more; else written to the ring slot at the put
index where the ring has room and a place of the Own Traffic Queue is free or given, which moves the put index and is counted; or
counted as unpublished where the ring is full, with RING-FULL raised; with room in the ring and no place the close waits as one
unit, once. With no entry below the tail the taking ends: the overflow tally is folded in and zeroed, the gap list is read and
cut, and the record's halves join as places allow. That a place given stays with the close past an entry that a full ring leaves
unwritten (log 30), and that a place owed to waiting units is not free (log 10), is what the model deduces. -/
def Obligations.HoldEntriesAreTaken : Prop :=
  (∀ (s : State) (k : Fin 4) (given : Bool) (e : PoolEntry) (rest : List PoolEntry),
    let y := s.billet k
    let w := y.working
    let f := e.finding
    let full : Prop := (s.ring.put + 1024 - s.getIndex) % 1024 = 1023
    let counted : Working := { w with
      classes := w.classes.add 1 f.cls
      severity3 := if f.severity = 3 then w.severity3 + 1 else w.severity3
      worst := max w.worst f.severity
      evidenceRequested := if f.action = .evidence then w.evidenceRequested + 1 else w.evidenceRequested }
    let taken (o : State) (v : Working) (published unpublished : Nat) : State :=
      ((State.forgetEntry
        (State.withStrand o k { s.strand k with billet := { y with
            holdList := rest, working := v, publishedCount := published, unpublishedCount := unpublished } })
        e.number).markDirty 1).markStrand k
    y.holdList = e :: rest → f.firstTravel < w.tail →
    (f.action = .count →
      s.continueTaking k given = (taken s counted y.publishedCount y.unpublishedCount).continueTaking k given) ∧
    (f.action ≠ .count → full →
      s.continueTaking k given =
        ((taken { s with ring := { s.ring with full := min (s.ring.full + 1) 0xFFFFFFFF } }
          { counted with unpublished := w.unpublished + 1 } y.publishedCount
          (min (y.unpublishedCount + 1) 0xFFFFFFFF)).raise .ringFull).continueTaking k given) ∧
    (f.action ≠ .count → ¬full → s.own.queue.length < 8 → (given = true ∨ s.placeFree = true) →
      s.continueTaking k given =
        (taken
          { s with
            own := { s.own with queue := s.own.queue ++
              [{ tag := .ringRecord, addr := BitVec.ofNat 40 (s.ctlBase + 0x10000 + s.ring.put * 64), count := 64
                 data := ringRecord f w.billetNumber w.head }] }
            ring := { s.ring with
              put := (s.ring.put + 1) % 1024, writesPending := s.ring.writesPending + 1
              written := min (s.ring.written + 1) 0xFFFFFFFF } }
          { counted with
            published := w.published + 1, firstRing := if w.firstRing = none then some s.ring.put else w.firstRing }
          (min (y.publishedCount + 1) 0xFFFFFFFF) y.unpublishedCount).continueTaking k false) ∧
    (f.action ≠ .count → ¬full → given = false → s.placeFree = false → (∀ n, (.close k, n) ∉ s.own.waiters) →
      s.continueTaking k given =
        { s with own := { s.own with waiters := s.own.waiters ++ [(.close k, s.eventNumber)] } })) ∧
  (∀ (s : State) (k : Fin 4) (n : Nat) (given : Bool),
    let y := s.billet k
    let bank := s.ctlBase + 0x8000 + k.val * 0x200 + (if y.published = .bankA then 0x100 else 0)
    (2 ≤ y.halvesQueued → State.queueHalves k (n + 1) given s = s) ∧
    (y.halvesQueued < 2 → s.own.queue.length < 8 → (given = true ∨ s.placeFree = true) →
      State.queueHalves k (n + 1) given s = State.queueHalves k n false
        { State.withStrand s k { s.strand k with billet := { y with halvesQueued := y.halvesQueued + 1 } } with
          own := { s.own with queue := s.own.queue ++
            [if y.halvesQueued = 0 then
              { tag := .billetHalf k, addr := BitVec.ofNat 40 bank, count := 64, data := billetFirstHalf k y.working }
            else
              { tag := .billetHalf k, addr := BitVec.ofNat 40 (bank + 64), count := 64
                data := billetSecondHalf k y.working }] } }) ∧
    (y.halvesQueued < 2 → given = false → s.placeFree = false → (∀ n, (.close k, n) ∉ s.own.waiters) →
      State.queueHalves k (n + 1) given s =
        { s with own := { s.own with waiters := s.own.waiters ++ [(.close k, s.eventNumber)] } })) ∧
  ∀ (s : State) (k : Fin 4) (given : Bool),
    let y := s.billet k
    let w := y.working
    let u := s.unit k
    let lost := lostFaces w.head w.tail u.gaps
    (∀ e rest, y.holdList = e :: rest → w.tail ≤ e.finding.firstTravel) →
    s.continueTaking k given =
      State.queueHalves k 2 given
        (State.withStrand s k
          { s.strand k with
            unit := { u with gaps := keptGaps w.tail u.gaps }
            billet := { y with
              working := { w with
                unlisted := y.tally.count, overflow := 0 < y.tally.count, worst := max w.worst y.tally.worst
                classes := w.classes.plus y.tally.classes, coverageMask := lost, coverageLost := lost != 0 }
              tally := .zero, close := .recording } })

/-- A stop marker of a strand with no OPEN track (R50, R103, R141, R147). With no close in hand, an empty Hold List and a final
boundary not above the head boundary, the close writes no record and ends at once, the tally joining the discarded count; the
strand becomes IDLE and its predictor OFF. With no close in hand, an empty Hold List, a final boundary above the head boundary and
room for two writes, the FINAL close starts, its taking ends at once and the record's two halves join the queue. With a close in
hand the final boundary waits, and nothing else changes but the marker, taken. TAKING of a stop marker in general (R103): the
marker is taken, the strand's OPEN tracks close INTERRUPTED, in ascending order of first travel and then of entry number, each
whole before the next, the final boundary is handed to the Billet Unit, and transactions presented that can be taken are (R2).
With a close in hand it waits; without one, and above the head boundary, the FINAL close starts with a new working record (R141);
not above it, no record is written and the close ends at once: every entry left on the Hold List leaves the pool, the entries and
the tally's count join the discarded count, and block 1, where an entry left, and the strand's block are marked (R137, R147). That
writes released join the forwarding queue before the transactions taken is the model's choice (log 36). -/
def Obligations.TakingAStopEndsTheCast : Prop :=
  (∀ (s : State) (k : Fin 4) (f : Nat) (rest : List QueueEntry),
    s.resetLow = false → s.lineQueue = .stop k f :: rest →
    let o : State :=
      { State.withStrand s.opened k { s.strand k with unit := { s.unit k with stopMarker := some (.taken, f) } } with
        lineQueue := rest }
    let c := (o.openWhere fun t => strandOf t.face == k).foldl (fun v x => v.closeEntry x.1 false true) o
    Answers .taking s (c.handFinal k f).takePresented) ∧
  (∀ (s : State) (k : Fin 4) (f : Nat),
    let y := s.billet k
    (y.close ≠ .idle →
      s.handFinal k f = State.withStrand s k { s.strand k with billet := { y with finalWaiting := some f } }) ∧
    (y.close = .idle → y.headBoundary < f →
      s.handFinal k f = s.startFinal k f ∧ s.startFinal k f =
        State.continueTaking
          (State.withStrand s k
            { s.strand k with billet := { y with
                close := .taking, inHand := some (.final, f), halvesQueued := 0, halvesAnswered := 0
                working :=
                  { billetNumber := (s.unit k).billetNumber, first := y.firstPending, final := true, overflow := false
                    coverageLost := false, head := y.headBoundary, tail := f, length := f - y.headBoundary
                    classes := .zero, severity3 := 0, worst := 0, published := 0, unpublished := 0, unlisted := 0
                    evidenceRequested := 0, coverageMask := 0, firstRing := none } } })
          k false) ∧
    (y.close = .idle → f ≤ y.headBoundary →
      s.handFinal k f = s.startFinal k f ∧
      State.Settles
        { State.withStrand s k
            { unit := { s.unit k with state := .idle, stopMarker := none, pendingBoundary := none }
              predictor := { s.predictor k with state := .off, candidate := none }
              billet := { y with
                holdList := [], tally := .zero, close := .idle, inHand := none
                discardedHolds := min (y.discardedHolds + (y.holdList.length + y.tally.count)) 0xFFFFFFFF } }
          with
          evidence := { s.evidence with
            slots := vtab fun i =>
              if ∃ e ∈ y.holdList, (s.slot i).poolEntry = some e.number then { s.slot i with poolEntry := none }
              else s.slot i } }
        (s.startFinal k f) ∧
      ((s.startFinal k f).mark (strandBlock k)).dirty = true ∧
      (y.holdList ≠ [] → ((s.startFinal k f).mark 1).dirty = true))) ∧
  ∀ (s : State) (k : Fin 4) (f : Nat) (rest : List QueueEntry),
    let u := s.unit k
    let y := s.billet k
    let lost := lostFaces y.headBoundary f u.gaps
    let w : Working :=
      { billetNumber := u.billetNumber, first := y.firstPending, final := true, overflow := 0 < y.tally.count
        coverageLost := lost != 0, head := y.headBoundary, tail := f, length := f - y.headBoundary
        classes := y.tally.classes, severity3 := 0, worst := y.tally.worst, published := 0, unpublished := 0
        unlisted := y.tally.count, evidenceRequested := 0, coverageMask := lost, firstRing := none }
    let bank := s.bankBase k y.published.other
    s.resetLow = false → s.nothingPresented → s.lineQueue = .stop k f :: rest →
    (∀ i t, s.track i = some t → strandOf t.face ≠ k) →
    (y.close = .idle → y.holdList = [] → f ≤ y.headBoundary →
      Answers .taking s
        { State.withStrand s.opened k
            { s.strand k with
              unit := { u with state := .idle, stopMarker := none, pendingBoundary := none }
              predictor := { s.predictor k with state := .off, candidate := none }
              billet := { y with
                tally := .zero, close := .idle, inHand := none
                discardedHolds := min (y.discardedHolds + y.tally.count) 0xFFFFFFFF } }
          with lineQueue := rest }) ∧
    (y.close = .idle → y.holdList = [] → y.headBoundary < f → s.own.queue.length + s.own.waiters.length ≤ 6 →
      Answers .taking s
        { State.withStrand s.opened k
            { s.strand k with
              unit := { u with stopMarker := some (.taken, f), gaps := keptGaps f u.gaps }
              billet := { y with
                working := w, tally := .zero, close := .recording, inHand := some (.final, f), halvesQueued := 2
                halvesAnswered := 0 } }
          with
          lineQueue := rest
          own := { s.own with queue := s.own.queue ++
            [{ tag := .billetHalf k, addr := BitVec.ofNat 40 bank, count := 64, data := billetFirstHalf k w },
             { tag := .billetHalf k, addr := BitVec.ofNat 40 (bank + 64), count := 64, data := billetSecondHalf k w }] } }) ∧
    (y.close ≠ .idle →
      Answers .taking s
        { State.withStrand s.opened k
            { s.strand k with
              unit := { u with stopMarker := some (.taken, f) }
              billet := { y with finalWaiting := some f } }
          with lineQueue := rest })

/-! ### Responses to own transactions -/

/-- The response to a block's write, in every part state: the write is no longer outstanding unless the block is written again at
once, its first-write mark clears when the write was issued since the entry to STARTING, and no other block's changes; a block-0
write posts the causes it carried that stayed pending, and an ERROR raises MEMERR (R180, R183). In STARTING the part becomes RUN,
with block 0 marked, where no first-write mark is then left and no zero record is unanswered, and stays STARTING else (R172). That
the marks are worked at the end of the event is the model's choice (log 12). IRQ_N is asserted exactly while some cause is
pending, posted and set in the cause-enable mask of the shadow (R183). -/
def Obligations.PostingDrivesIrq : Prop :=
  (∀ (s : State) (resp : Resp) (x : OwnTxn) (rest : List OwnTxn) (b : Fin 22),
     s.resetLow = false → s.own.writes = x :: rest → x.tag = .statusBlock b →
     let first (j : Fin 22) : Bool := if j = b then (s.mark b).firstWrite && !(s.mark b).sinceStarting else (s.mark j).firstWrite
     let runs : Prop := s.part = .starting ∧ s.zeroUnanswered = 0 ∧ ∀ j, first j = false
     let a : State := { State.ownWriteAnswered s rest resp with part := if runs then .run else s.part }
     ∃ t, exec (.statusWriteResponse resp) s = .next t ∧
       State.Settles
         (if b = 0 then
            { a with causes := { a.causes with
                posted := s.causes.posted ||| (a.causes.pending &&& s.causes.carried), carried := 0 } }
          else a) t ∧
       (runs → s.noted t 0) ∧ (∀ j, (t.mark j).firstWrite = first j) ∧
       ((t.mark b).outstanding = true → (t.mark b).sequence = (s.mark b).sequence + 1)) ∧
  ∀ s : State, s.irqAsserted = true ↔ ∃ c : Cause,
    s.causes.pending.getLsbD c.bit = true ∧ s.causes.posted.getLsbD c.bit = true ∧ s.causeMask.getLsbD c.bit = true

/-- In STARTING, the response to a zero record write lowers the count of those unanswered, and the part becomes RUN at the
event at which none is left and every first-write mark is clear, whether that event is the last zero record's response or
the last block's first response (R140, R172). -/
def Obligations.PartEntersRunWhenAllIsAnswered : Prop :=
  (∀ (s : State) (resp : Resp) (x : OwnTxn) (rest : List OwnTxn),
    s.resetLow = false → s.own.writes = x :: rest → x.tag = .zeroRecord →
    Answers (.zeroRecordWriteResponse resp) s
      { State.ownWriteAnswered s rest resp with
        zeroUnanswered := s.zeroUnanswered - 1
        part := if s.part = .starting ∧ s.zeroUnanswered ≤ 1 ∧ ∀ b, (s.mark b).firstWrite = false then .run
          else s.part }) ∧
  ∀ (s : State) (resp : Resp) (x : OwnTxn) (rest : List OwnTxn) (b : Fin 22),
    s.resetLow = false → s.own.writes = x :: rest → x.tag = .statusBlock b → s.part = .starting →
    (s.mark b).sinceStarting = true → (∀ j, j ≠ b → (s.mark j).firstWrite = false) → s.zeroUnanswered = 0 →
    ∃ t, exec (.statusWriteResponse resp) s = .next t ∧ t.part = .run ∧ t.shadow = s.shadow ∧ t.strands = s.strands

/-- The response to the first half of a billet record is counted; at the second half the strand flips (R59, R146): the banks swap,
the head boundary becomes the tail, first pending clears, the close ends, the billet number rises by one, the flip is counted and
BILLET is raised. At a BOUNDARY close the pending boundary clears, and a final boundary that waits starts its close at the same
event. A FINAL close then ends the cast (R147): the entries left leave the pool and join the discarded count, the strand becomes
IDLE and its predictor OFF. -/
def Obligations.SecondRecordHalfFlipsTheBanks : Prop :=
  ∀ (s : State) (resp : Resp) (x : OwnTxn) (rest : List OwnTxn) (k : Fin 4),
    let a := State.ownWriteAnswered s rest resp
    let u := s.unit k
    let y := s.billet k
    let flipped : Billet := { y with
      published := y.published.other, working := .cleared, headBoundary := y.working.tail
      firstPending := false, close := .idle, inHand := none, halvesQueued := 0, halvesAnswered := 0
      billetsClosed := min (y.billetsClosed + 1) 0xFFFFFFFF }
    let closed : Strand := { s.strand k with
      unit := { u with pendingBoundary := none, billetNumber := u.billetNumber + 1 }, billet := flipped }
    s.resetLow = false → s.own.writes = x :: rest → x.tag = .billetHalf k →
    (y.halvesAnswered = 0 → Answers (.billetRecordWriteResponse resp) s
      (State.withStrand a k { s.strand k with billet := { y with halvesAnswered := 1 } })) ∧
    (∀ b, y.halvesAnswered = 1 → y.inHand = some (.boundary, b) → y.finalWaiting = none →
      Answers (.billetRecordWriteResponse resp) s ((State.withStrand a k closed).withCause .billet)) ∧
    (∀ b f, y.halvesAnswered = 1 → y.inHand = some (.boundary, b) → y.finalWaiting = some f →
      ∃ o, State.Settles ((State.withStrand a k { closed with billet := { flipped with finalWaiting := none } }).withCause
          .billet) o ∧ Answers (.billetRecordWriteResponse resp) s (o.startFinal k f)) ∧
    (∀ f, y.halvesAnswered = 1 → y.inHand = some (.final, f) →
      Answers (.billetRecordWriteResponse resp) s
        (let b := (State.withStrand a k
          { unit := { u with
              state := .idle, stopMarker := none, pendingBoundary := none, billetNumber := u.billetNumber + 1 }
            predictor := { s.predictor k with state := .off, candidate := none }
            billet := { flipped with
              holdList := [], discardedHolds := min (y.discardedHolds + y.holdList.length) 0xFFFFFFFF } }).withCause .billet
         { b with
            evidence := { s.evidence with
              slots := vtab fun i =>
                if ∃ e ∈ y.holdList, (s.slot i).poolEntry = some e.number then { s.slot i with poolEntry := none }
                else s.slot i } }))

/-- The response to a ring read (R161 to R164), OKAY or ERROR, whatever the engine holds: the read is taken off, its data handled,
and then presented transactions that can be taken are (R2). The data of a read that does not end its row is written into the tile
behind the header's 64 bytes and the rows before it, and the row's next read is made. One that ends its row ends the protection of
the row's line too, with a release step, and then the next row is read, or after the last row the header is made, CLIPPED where
the range is and COMPLETE else. A read of a slot that is no longer copying for the same finding, or whose outcome is fixed, has
its data discarded. An ERROR raises MEMERR and counts a read error of the engine, and of the slot where the read is still its own,
and is treated as an OKAY. A slot's next read (R161) begins at the window's landing base plus the line's place in the ring, the
byte offset and what the row has returned, and has 256 bytes, or fewer to the row's end or to a 4 KiB boundary. A transaction that
the engine makes joins the Own Traffic Queue, or waits with the engine behind its others (R16). A ring read that joins the queue
is its slot's read outstanding; one that waits is not (R152). That the ERROR of a discarded read is counted and a slot used again
is told by its queue order (log 24, log 26), that released writes join the forwarding queue before transactions taken (log 36),
that a ring read is issued, and so outstanding, at its joining of the queue and not only at its grant (log 41), and that a place
owed to waiting units is not free (log 10), is the model's choice or reading. The data of a read whose place crosses a 4 KiB
boundary is written with two writes, split there (R161); that the lower goes first is the model's choice (log 42). -/
def Obligations.RingReadFillsTheTile : Prop :=
  (∀ (s : State) (z : Slot),
    let w := s.window z.window
    let place := (if w.remap = 1 then w.remapBase else w.base) +
      (z.oldestLine + z.rowsReturned) % w.ringLines * w.stride + z.byteOffset + z.rowPos
    s.readAddress z = place ∧ s.readSize z = min (min 256 (z.rowBytes - z.rowPos)) (4096 - place % 4096)) ∧
  (∀ (s : State) (i : Fin 4),
    let z := s.slot i
    s.makeRead i = s.engineMake
      { tag := .ringRead i z.order, addr := BitVec.ofNat 40 (s.readAddress z), count := s.readSize z, data := [] } ∧
    ∀ o, s.makeHeader i o = State.engineMake
      { s with evidence := { s.evidence with slots := vset s.evidence.slots i { z with outcome := some o } } }
      { tag := .tileHeader i
        addr := BitVec.ofNat 40 (s.globals.evidenceBase + z.tile.val * (65536 * 2 ^ s.globals.tileSizeLog))
        count := 64, data := tileHeader z o }) ∧
  (∀ (s : State) (x : OwnTxn),
    let direct : Prop := s.own.engine = [] ∧ s.own.queue.length + s.own.waiters.length < 8 ∧
      ∀ n, (.evidence, n) ∉ s.own.waiters
    let joined : State := { s with own := { s.own with queue := s.own.queue ++ [x] } }
    (direct → x.tag.isRead = false → s.engineMake x = joined) ∧
    (direct → ∀ i n, x.tag = .ringRead i n → s.engineMake x =
      { joined with evidence := { s.evidence with
          slots := vset s.evidence.slots i { s.slot i with readOutstanding := true } } }) ∧
    (¬direct → s.engineMake x =
      { s with own := { s.own with
          engine := s.own.engine ++ [x]
          waiters := s.own.waiters ++ if s.waits .evidence then [] else [(.evidence, s.eventNumber)] } })) ∧
  (∀ (s : State) (data : List Byte) (x : OwnTxn) (rest : List OwnTxn) (i : Fin 4),
    let z := s.slot i
    let place := s.globals.evidenceBase + z.tile.val * (65536 * 2 ^ s.globals.tileSizeLog) + 64 +
      z.rowsReturned * z.rowBytes + z.rowPos
    s.resetLow = false → s.nothingPresented → s.own.reads = x :: rest → x.tag = .ringRead i z.order →
    x.count = data.length → z.state = .copying → z.readOutstanding = true → z.outcome = none →
    data.length + place % 4096 ≤ 4096 →
    s.own.engine = [] → s.own.queue.length + s.own.waiters.length ≤ 6 → s.waits .evidence = false →
    let row : OwnTxn := { tag := .tileRow, addr := BitVec.ofNat 40 place, count := data.length, data := data }
    let answered : State :=
      { s.opened with own := { s.own with reads := rest, queue := s.own.queue ++ [row] } }
    let withSlot (o : State) (v : Slot) : State := { o with evidence := { o.evidence with slots := vset o.evidence.slots i v } }
    (z.rowPos + data.length < z.rowBytes →
      let v : Slot := { z with rowPos := z.rowPos + data.length }
      Answers (.ringReadResponse .okay data) s
        { withSlot answered v with own := { answered.own with queue := answered.own.queue ++
            [{ tag := .ringRead i z.order, addr := BitVec.ofNat 40 (s.readAddress v), count := s.readSize v
               data := [] }] } }) ∧
    (z.rowBytes ≤ z.rowPos + data.length →
      let v : Slot := { z with rowsReturned := z.rowsReturned + 1, rowPos := 0 }
      let b := (withSlot answered { v with readOutstanding := false }).releaseStep
      (z.rowsReturned + 1 < z.rowCount →
        Answers (.ringReadResponse .okay data) s
          (State.takePresented
            { withSlot b v with own := { b.own with queue := b.own.queue ++
                [{ tag := .ringRead i z.order, addr := BitVec.ofNat 40 (s.readAddress v), count := s.readSize v
                   data := [] }] } })) ∧
      (z.rowCount ≤ z.rowsReturned + 1 →
        let o : Machine.Outcome := if z.clipped then .clipped else .complete
        let h : Slot := { v with readOutstanding := false, outcome := some o }
        Answers (.ringReadResponse .okay data) s
          (State.takePresented
            { withSlot b h with own := { b.own with queue := b.own.queue ++
                [{ tag := .tileHeader i
                   addr := BitVec.ofNat 40
                    (s.globals.evidenceBase + z.tile.val * (65536 * 2 ^ s.globals.tileSizeLog))
                   count := 64, data := tileHeader { v with readOutstanding := false } o }] } })))) ∧
  (∀ (s : State) (place : Nat) (data : List Byte),
    let room := 4096 - place % 4096
    let row (at_ : Nat) (l : List Byte) : OwnTxn :=
      { tag := .tileRow, addr := BitVec.ofNat 40 at_, count := l.length, data := l }
    (data.length ≤ room → s.makeRowWrites place data = s.engineMake (row place data)) ∧
    (room < data.length → s.makeRowWrites place data =
      (s.engineMake (row place (data.take room))).engineMake (row (place + room) (data.drop room)))) ∧
  (∀ (s : State) (i : Fin 4) (data : List Byte),
    let z := s.slot i
    let b := s.makeRowWrites
      (s.globals.evidenceBase + z.tile.val * (65536 * 2 ^ s.globals.tileSizeLog) + 64 + z.rowsReturned * z.rowBytes + z.rowPos)
      data
    let become (v : Slot) : State := { b with evidence := { b.evidence with slots := vset b.evidence.slots i v } }
    let ended := (become { z with rowsReturned := z.rowsReturned + 1, rowPos := 0 }).releaseStep
    s.readReturned i data =
      if z.rowPos + data.length < z.rowBytes then (become { z with rowPos := z.rowPos + data.length }).makeRead i
      else if z.rowsReturned + 1 < z.rowCount then ended.makeRead i
      else ended.makeHeader i (if z.clipped then .clipped else .complete)) ∧
  (∀ (s : State) (data : List Byte) (x : OwnTxn) (rest : List OwnTxn) (i : Fin 4) (n : Nat),
    s.resetLow = false → s.nothingPresented → s.own.reads = x :: rest → x.tag = .ringRead i n →
    x.count = data.length →
    ((s.slot i).state = .idle ∨ (s.slot i).order ≠ n →
      Answers (.ringReadResponse .okay data) s { s.opened with own := { s.own with reads := rest } }) ∧
    ((s.slot i).state ≠ .idle → (s.slot i).order = n → (s.slot i).readOutstanding = true → (s.slot i).outcome ≠ none →
      Answers (.ringReadResponse .okay data) s
        { s.opened with
          own := { s.own with reads := rest }
          evidence := { s.evidence with slots := vset s.evidence.slots i { s.slot i with readOutstanding := false } } })) ∧
  (∀ (s : State) (resp : Resp) (data : List Byte) (x : OwnTxn) (rest : List OwnTxn) (i : Fin 4) (n : Nat),
    s.resetLow = false → s.own.reads = x :: rest → x.tag = .ringRead i n → x.count = data.length →
    Answers (.ringReadResponse resp data) s
      (State.takePresented
        (State.ringReadAnswered { s.opened with own := { s.own with reads := rest } } i n resp data))) ∧
  ∀ (s : State) (i : Fin 4) (n : Nat) (data : List Byte),
    let z := s.slot i
    let mine : Prop := z.state ≠ .idle ∧ z.order = n ∧ z.readOutstanding = true
    let v : Slot := { z with readOutstanding := false, readErrors := min 255 (z.readErrors + 1) }
    let become (u : Slot) : State := { s with evidence := { s.evidence with slots := vset s.evidence.slots i u } }
    let counted (o : State) : State := State.withCause
      { o with evidence := { o.evidence with readErrors := min (s.evidence.readErrors + 1) 0xFFFFFFFF } } .memErr
    (mine →
      (s.ringReadAnswered i n .okay data =
        let o := become { z with readOutstanding := false }
        if z.outcome = none then o.readReturned i data else o) ∧
      ∃ o, State.Settles (counted (become v)) o ∧
        s.ringReadAnswered i n .error data = if z.outcome = none then o.readReturned i data else o) ∧
    (¬mine → s.ringReadAnswered i n .okay data = s ∧ State.Settles (counted s) (s.ringReadAnswered i n .error data))

/-- The response to a ring record write lowers writes pending by one (R139); the response to a tile row write ends it (R162); an
ERROR raises MEMERR (R16). The response to a tile header, OKAY or ERROR: the tile becomes READY, the slot IDLE and cleared,
EVIDENCE is raised and the outcome counted (R163, R168); then, where the slot was COPYING, the copy engine chooses among the slots
that wait (R160). An OVERRUN or ABORTED outcome is counted here or was at the abort, which of the two is left free (log 14). That a
cleared slot's finding class is CORNER and its other numbers are 0 is the model's choice (log 39). -/
def Obligations.OwnWritesAreAnswered : Prop :=
  (∀ (s : State) (resp : Resp) (x : OwnTxn) (rest : List OwnTxn),
    s.resetLow = false → s.own.writes = x :: rest → x.tag = .ringRecord →
    Answers (.ringWriteResponse resp) s
      { State.ownWriteAnswered s rest resp with
        ring := { s.ring with writesPending := s.ring.writesPending - 1 } }) ∧
  (∀ (s : State) (resp : Resp) (x : OwnTxn) (rest : List OwnTxn),
    s.resetLow = false → s.own.writes = x :: rest → x.tag = .tileRow →
    Answers (.tileRowWriteResponse resp) s (State.ownWriteAnswered s rest resp)) ∧
  ∀ (s : State) (resp : Resp) (x : OwnTxn) (rest : List OwnTxn) (i : Fin 4) (o : Machine.Outcome),
    let e := s.evidence
    let z := s.slot i
    let late := !Config.countsAtAbort
    s.resetLow = false → s.own.writes = x :: rest → x.tag = .tileHeader i → z.outcome = some o →
    ∃ a, State.Settles
      ({ State.ownWriteAnswered s rest resp with
        evidence := { e with
          tiles := vset e.tiles z.tile .ready
          slots := vset e.slots i .cleared
          complete := if o = Machine.Outcome.complete then min (e.complete + 1) 0xFFFFFFFF else e.complete
          clipped := if o = Machine.Outcome.clipped then min (e.clipped + 1) 0xFFFFFFFF else e.clipped
          overrun := if o = Machine.Outcome.overrun ∧ late = true then min (e.overrun + 1) 0xFFFFFFFF else e.overrun
          aborted := if o = Machine.Outcome.aborted ∧ late = true then min (e.aborted + 1) 0xFFFFFFFF else e.aborted
          } }.withCause .evidence) a ∧
      Answers (.tileHeaderResponse resp) s (if z.state = .copying then a.chooseCopy else a)

/-- The range of a copy and what it protects (R156 to R158). With n the line after the window's last completed line, or after the
track's last line where there is none, the age of a line counts back from n, from 1 to RingLines. The rows run from the newest, the
age of the track's last line less MarginLines or 1, to the oldest, the age of its first line plus MarginLines or RingLines less
GuardLines; the oldest are dropped that pass the tile's capacity. The columns are the track's cells with MarginCells, kept within
FirstCell and LastCell, in memory order. CLIPPED says that the track's first line is not among the rows, or that the capacity cut
them. A slot protects the lines of its rows not yet returned, while it is QUEUED or COPYING and not finishing. -/
def Obligations.CopyRangeFollowsTheRing : Prop :=
  (∀ (g : Globals) (x : Window) (completed : Option Nat) (q : CopyRequest),
    let lines := x.ringLines
    2 * g.guardLines < lines → q.firstRing < lines → q.lastRing < lines → (∀ l, completed = some l → l < lines) →
    let r := copyRange g x completed q
    let next := match completed with
      | none => q.lastRing + 1
      | some l => l + 1
    ∃ lastAge, 1 ≤ lastAge ∧ lastAge ≤ lines ∧ (lastAge + q.lastRing) % lines = next % lines ∧
      let firstAge := lastAge + (q.lastRing + lines - q.firstRing) % lines
      let newest := max (lastAge - g.marginLines) 1
      let oldest := min (firstAge + g.marginLines) (lines - g.guardLines)
      let rows := oldest + 1 - newest
      let capacity := (g.tileBytes - 64) / r.rowBytes
      let kept := if capacity < rows then newest + capacity - 1 else oldest
      r.rowCount = min rows capacity ∧
      (1 ≤ kept → r.oldestLine < lines ∧ (r.oldestLine + kept) % lines = next % lines) ∧
      (r.clipped = true ↔ kept < firstAge ∨ capacity < rows) ∧
      r.firstCell = max (q.minCell - g.marginCells) x.firstCell ∧
      r.lastCell = min (q.maxCell + g.marginCells) x.lastCell ∧
      r.rowBytes = (r.lastCell + 1 - r.firstCell) * x.cellBytes ∧
      r.byteOffset = if x.mirror = 1 then x.lineBytes - (r.lastCell + 1) * x.cellBytes else r.firstCell * x.cellBytes) ∧
  ∀ (s : State) (i : Fin 4) (w : Fin 16) (line : Nat),
    let z := s.slot i
    let lines := (s.window w).ringLines
    z.oldestLine < lines → z.rowCount ≤ lines →
    (s.slotProtects i w line = true ↔
      (z.state = .queued ∨ z.state = .copying) ∧ z.outcome = none ∧ z.window = w ∧
        ∃ j, z.rowsReturned ≤ j ∧ j < z.rowCount ∧ line = (z.oldestLine + j) % lines)

/-! ### The inspection itself (R72 to R82, R119 to R123, R126 to R136, R150 to R160) -/

/-- The admission of a line that reaches the Surface Model (R72): skipped where a test of the part, the strand, the model, the
head or the travel fails; late below the strand's last boundary; skipped sooner than MinStep after the last line processed;
admitted and processed otherwise. A line not admitted changes its one count and nothing else. -/
def Obligations.LineIsAdmittedSkippedOrLate : Prop :=
  ∀ (s : State) (l : Line),
    let k := l.face
    let u := s.unit (strandOf k)
    let x := s.face k
    let usable : Prop := s.part = .run ∧ (u.state = .casting ∨ u.state = .held) ∧
      (x.model.state = .warmUp ∨ x.model.state = .ready) ∧ (x.head.state = .active ∨ x.head.state = .passive) ∧
      l.stamp ≤ u.travel
    let spaced : Prop := ∀ p, x.model.lastStamp = some p → p + (s.settings (strandOf k)).minStep ≤ l.stamp
    let after (n : ModelCounts) : State := { s with faces := vset s.faces k { x with counts := n } }
    ((¬usable ∨ (u.lastBoundary ≤ l.stamp ∧ ¬spaced)) →
      s.lineReaches l = after { x.counts with skipped := min (x.counts.skipped + 1) 0xFFFFFFFF }) ∧
    (usable → l.stamp < u.lastBoundary →
      s.lineReaches l = after { x.counts with late := min (x.counts.late + 1) 0xFFFFFFFF }) ∧
    (usable → u.lastBoundary ≤ l.stamp → spaced →
      s.lineReaches l = s.processLine l ∧
      let t := s.lineReaches l
      (t.face k).model = (Model.process (s.crackThreshold k) l x.model).1 ∧
      (t.face k).counts.admittedLines = min (x.counts.admittedLines + 1) 0xFFFFFFFF ∧
      (t.face k).counts.skipped = x.counts.skipped ∧ (t.face k).counts.late = x.counts.late ∧
      ∀ j, j ≠ k → t.face j = s.face j)

/-- What a processed line leaves (R79 to R82, R71). The model is the one that the line teaches, the admitted count rises, and the
noisy count for a NOISY line. The line of a model that was READY makes a line result, with its segments and flags, which is offered
to the Line Result Queue: with fewer than 32 results queued it joins at the tail and is counted as queued, else it is dropped,
counted, raises TRACK-LIMIT and marks the face's block. The line that makes the model READY gives the notice that the face is
covered; any other line of a warm-up nothing more. -/
def Obligations.LineResultJoinsOrIsDropped : Prop :=
  (∀ (s : State) (l : Line),
    let k := l.face
    let x := s.face k
    let p := x.model.process (s.crackThreshold k) l
    let taught : State := { s with
      faces := vset s.faces k
        { x with
          model := p.1
          counts := { x.counts with
            admittedLines := min (x.counts.admittedLines + 1) 0xFFFFFFFF
            noisy := if p.2.2 then min (x.counts.noisy + 1) 0xFFFFFFFF else x.counts.noisy } } }
    (x.model.state = .ready → s.processLine l = taught.offerResult
      { face := k, stamp := l.stamp, ringLine := l.index, noisy := p.2.2, gap := l.gap, lowConf := l.lowConf
        segments := p.2.1 }) ∧
    (x.model.state ≠ .ready → p.1.state = .ready → s.processLine l = taught.coverFace k) ∧
    (x.model.state ≠ .ready → p.1.state ≠ .ready → s.processLine l = taught)) ∧
  ∀ (s : State) (r : LineResult),
    let x := s.face r.face
    (resultsQueued s.lineQueue < 32 →
      s.offerResult r =
        { s with
          lineQueue := s.lineQueue ++ [.result r]
          faces := vset s.faces r.face
            { x with
              queuedCount := x.queuedCount + 1
              counts := { x.counts with queued := min (x.counts.queued + 1) 0xFFFFFFFF } } }) ∧
    (32 ≤ resultsQueued s.lineQueue →
      State.Settles
        (State.withCause
          { s with
            faces := vset s.faces r.face
              { x with counts := { x.counts with dropped := min (x.counts.dropped + 1) 0xFFFFFFFF } } } .trackLimit)
        (s.offerResult r) ∧
      ((s.offerResult r).mark (faceBlock r.face)).dirty = true)

/-- What a processed line does to the model (R74 to R79): the first line of a warm-up makes each face cell's background its
mean and makes no segment; a later line makes the runs of hot cells its segments, none when there are more than 16, and moves
the background of every face cell outside its segments a sixteenth of the way to the mean; a warm-up ends at 32 lines. -/
def Obligations.LineTeachesTheModel : Prop :=
  ∀ (threshold : Nat) (l : Line) (m : Model),
    let p := m.process threshold l
    let inFace (c : Fin 512) : Prop := l.firstCell ≤ c.val ∧ c.val < l.firstCell + l.cells.length
    let mean (c : Fin 512) : Nat := ((l.cells.getD (c.val - l.firstCell) []).map (·.toNat)).sum * 32
    let first : Prop := m.state = .warmUp ∧ m.warmUp = 0
    p.1.lastStamp = some l.stamp ∧ p.1.forView = m.forView ∧ p.1.forHead = m.forHead ∧
    (first → p.2 = ([], false) ∧ p.1.warmUp = 1 ∧ p.1.state = .warmUp ∧
      ∀ c, (inFace c → vget p.1.background c = mean c) ∧ (¬inFace c → vget p.1.background c = vget m.background c)) ∧
    (¬first →
      p.2.2 = decide (16 < (m.runs threshold l).length) ∧
      p.2.1 = (if 16 < (m.runs threshold l).length then [] else m.runs threshold l) ∧
      (∀ c, (p.2.2 = true ∨ ¬inFace c ∨ ∃ g ∈ p.2.1, g.first ≤ c.val ∧ c.val ≤ g.last) →
        vget p.1.background c = vget m.background c) ∧
      (∀ c, p.2.2 = false → inFace c → (∀ g ∈ p.2.1, ¬(g.first ≤ c.val ∧ c.val ≤ g.last)) →
        let b := vget m.background c
        vget p.1.background c = if b ≤ mean c then b + (mean c - b) / 16 else b - (b - mean c) / 16) ∧
      (m.state = .warmUp →
        p.1.warmUp = m.warmUp + 1 ∧ p.1.state = if m.warmUp + 1 = 32 then .ready else .warmUp) ∧
      (m.state ≠ .warmUp → p.1.warmUp = m.warmUp ∧ p.1.state = m.state))

/-- The runs of a line (R76, R77): a face cell lies in a run exactly when its contrast, the integer part of its background
minus its least value or 0, is the threshold or more; runs are listed in ascending order, no two touch, each lies in the face,
and its peak is the greatest contrast among its cells. -/
def Obligations.RunsAreTheHotCells : Prop :=
  ∀ (threshold : Nat) (l : Line) (m : Model),
    let con (i : Nat) : Nat :=
      m.background.getD (l.firstCell + i) 0 / 256 - ((l.cells.getD i []).map (·.toNat)).foldl min 255
    let runs := m.runs threshold l
    (∀ i, i < l.cells.length →
      (threshold ≤ con i ↔ ∃ g ∈ runs, g.first ≤ l.firstCell + i ∧ l.firstCell + i ≤ g.last)) ∧
    runs.Pairwise (fun g h => g.last + 1 < h.first) ∧
    ∀ g ∈ runs, l.firstCell ≤ g.first ∧ g.first ≤ g.last ∧ g.last < l.firstCell + l.cells.length ∧
      (∀ c, g.first ≤ c → c ≤ g.last → con (c - l.firstCell) ≤ g.peak) ∧
      ∃ c, g.first ≤ c ∧ c ≤ g.last ∧ con (c - l.firstCell) = g.peak

/-- An observation of the Mark Predictor (R119, R120): in SEEKING it locks one whole pitch after the candidate and else
becomes the candidate; in LOCKED and COASTING it is a duplicate, a hit or a stray, the first whose condition holds. The
mark-window test answers for the last and the next mark while a rhythm is held (R123). OFF ignores an observation. -/
def Obligations.ObservationsFollowTheRhythm : Prop :=
  ∀ (tolerance c : Nat) (p : Predictor),
    let whole := (p.pitch + 128) / 256
    let near (a b : Nat) : Prop := -(tolerance : Int) ≤ (a : Int) - b ∧ (a : Int) - b ≤ tolerance
    let q := p.observe tolerance c
    let seen : Predictor := { p with observations := min (p.observations + 1) 0xFFFFFFFF }
    (p.state = .off → q = p) ∧
    (p.state = .seeking →
      (∀ d, p.candidate = some d → near c (d + whole) → q = { seen with
        state := .locked, lastMark := c, nextMark := c + whole, missCount := 0, candidate := none
        locks := min (p.locks + 1) 0xFFFFFFFF }) ∧
      ((∀ d, p.candidate = some d → ¬near c (d + whole)) → q = { seen with candidate := some c })) ∧
    ((p.state = .locked ∨ p.state = .coasting) →
      (near c p.lastMark → q = { seen with duplicates := min (p.duplicates + 1) 0xFFFFFFFF }) ∧
      (¬near c p.lastMark → near c p.nextMark → q = { seen with
        state := .locked, lastMark := c, nextMark := c + whole, missCount := 0, hits := min (p.hits + 1) 0xFFFFFFFF }) ∧
      (¬near c p.lastMark → ¬near c p.nextMark → q = { seen with strays := min (p.strays + 1) 0xFFFFFFFF })) ∧
    (p.inWindow tolerance c = true ↔
      (p.state = .locked ∨ p.state = .coasting) ∧ (near c p.lastMark ∨ near c p.nextMark))

/-- The handling of a finding (R126, R129 to R136), in its order. Its strand's findings count rises. The filter: the lowest enabled
entry whose Code agrees with the key in every bit of its Mask gives the action and is counted, none gives COUNT. The alert: a
finding of AlertSeverity 1 to 3 or more asserts ALERT_s, restarts its timer, is counted and raises FINDING, and any other leaves the
state as it is. The request of an action EVIDENCE, with the pool entry the finding is about to take. The Hold List: it takes the
free pool entry of lowest number and joins its strand's Hold List behind every entry of equal or less first travel; with all 256
entries held it joins the overflow tally and raises TRACK-LIMIT. -/
def Obligations.FindingIsFilteredAlertedAndHeld : Prop :=
  ∀ (s : State) (f : Finding),
    let hit (i : Fin 8) : Prop :=
      filterEnabled s.shadow i = true ∧
        ∀ n, ((s.filter i).mask : BitVec 16).getLsbD n = true → f.key.getLsbD n = (s.filter i).code.getLsbD n
    let x := s.settings f.strand
    let y := s.billet f.strand
    let isHeld (n : Nat) : Prop := ∃ k, ∃ e ∈ (s.billet k).holdList, e.number = n
    (∀ i, hit i → (∀ j, j < i → ¬hit j) →
      s.filterFinding f =
        ({ f with
            filterHit := some i
            action := if (s.filter i).action = 0 then .count else if (s.filter i).action = 1 then .publish else .evidence },
          { s with ring := { s.ring with hits := vset s.ring.hits i (min (vget s.ring.hits i + 1) 0xFFFFFFFF) } })) ∧
    ((∀ i, ¬hit i) →
      s.filterFinding f =
        ({ f with filterHit := none, action := .count },
          { s with ring := { s.ring with noHit := min (s.ring.noHit + 1) 0xFFFFFFFF } })) ∧
    (1 ≤ x.alertSeverity → x.alertSeverity ≤ 3 → x.alertSeverity ≤ f.severity →
      State.Settles
        ((State.withStrand s f.strand
          { s.strand f.strand with billet := { y with
              alert := true, alertTimer := some (s.timeBase + 1000 * x.alertTime)
              alerts := min (y.alerts + 1) 0xFFFFFFFF } }).withCause .finding)
        (s.alertFinding f)) ∧
    ((x.alertSeverity = 0 ∨ 3 < x.alertSeverity ∨ f.severity < x.alertSeverity) → s.alertFinding f = s) ∧
    (∀ n, n < 256 → ¬isHeld n → (∀ m, m < n → isHeld m) →
      s.freeEntry = some n ∧
      ∃ before behind, y.holdList = before ++ behind ∧
        (∀ e ∈ before, e.finding.firstTravel ≤ f.firstTravel) ∧
        (∀ e, behind.head? = some e → f.firstTravel < e.finding.firstTravel) ∧
        State.Settles
          (State.withStrand s f.strand
            { s.strand f.strand with billet := { y with
                holdList := before ++ { number := n, finding := f } :: behind
                listed := min (y.listed + 1) 0xFFFFFFFF } })
          (s.holdFinding f)) ∧
    ((∀ n, n < 256 → isHeld n) →
      s.freeEntry = none ∧
      State.Settles
        ((State.withStrand s f.strand
          { s.strand f.strand with billet := { y with
              unlisted := min (y.unlisted + 1) 0xFFFFFFFF
              tally :=
                { count := min (y.tally.count + 1) 65535
                  classes := (y.tally.classes.add 1 f.cls).capped
                  worst := max y.tally.worst f.severity } } }).withCause .trackLimit)
        (s.holdFinding f)) ∧
    ∀ src : Source,
      let r := (State.withStrand s f.strand
        { s.strand f.strand with billet := { y with findings := min (y.findings + 1) 0xFFFFFFFF } }).filterFinding f
      let g := r.1
      let a := r.2.alertFinding g
      let answer := a.requestCopy
        { severity := g.severity, cls := g.cls, face := faceOf g.strand g.face, minCell := g.minCell, maxCell := g.maxCell
          firstTravel := g.firstTravel, lastTravel := src.lastTravel, window := src.window, firstRing := src.firstRing
          lastRing := src.lastRing, poolEntry := a.freeEntry }
      (g.action ≠ .evidence → s.handleFinding f src = a.holdFinding g) ∧
      (g.action = .evidence →
        s.handleFinding f src =
          answer.2.holdFinding { g with evidence := answer.1.1, tile := answer.1.2 })

/-- The answer to a copy request (R150, R153 to R155, R160): NO-TILE with evidence off, or with a slot IDLE and no tile FREE;
ASSIGNED with the lowest FREE tile, which becomes FILLING, and the lowest IDLE slot, which takes the request; with no slot IDLE,
ASSIGNED with the slot and tile of the victim, the slot QUEUED with its finding in the pool that is of least severity, below the
request's, and of those the one that became QUEUED last: its pool entry is marked PRE-EMPTED with no tile, a release step is made,
and the slot takes the request; BUSY with no slot IDLE and none that the request may pre-empt. Each answer is counted. The copy
engine then chooses, with no slot COPYING, the QUEUED slot of highest severity and then of lowest queue order that is not
finishing: it becomes COPYING and makes its first read, or its header, CLIPPED, for a range of no rows. -/
def Obligations.CopyRequestIsAnswered : Prop :=
  (∀ (s : State) (q : CopyRequest),
    let e := s.evidence
    let free (t : Fin 64) : Prop := t.val < s.globals.tileCount ∧ s.tile t = .free
    let victim (i : Fin 4) : Prop := (s.slot i).state = .queued ∧ (s.slot i).outcome = none ∧
      (s.slot i).poolEntry ≠ none ∧ (s.slot i).severity < q.severity
    let asked : Evidence := { e with requests := min (e.requests + 1) 0xFFFFFFFF }
    (s.globals.evidenceEnable ≠ 1 →
      s.requestCopy q =
        ((.noTile, none), { s with evidence := { e with evidenceOff := min (e.evidenceOff + 1) 0xFFFFFFFF } })) ∧
    (s.globals.evidenceEnable = 1 → (∃ i, (s.slot i).state = .idle) → (∀ t, ¬free t) →
      (s.requestCopy q).1 = (.noTile, none) ∧
      State.Settles
        ({ s with evidence := { asked with noTile := min (e.noTile + 1) 0xFFFFFFFF } }.withCause .tilesOut)
        (s.requestCopy q).2) ∧
    (∀ i t, s.globals.evidenceEnable = 1 → (s.slot i).state = .idle → (∀ j, j < i → (s.slot j).state ≠ .idle) →
      free t → (∀ u, u < t → ¬free u) →
      let r := s.requestCopy q
      r.1 = (.assigned, some t) ∧ r.2.tile t = .filling ∧ (∀ u, u ≠ t → r.2.tile u = s.tile u) ∧
      (r.2.slot i).state ≠ .idle ∧ (r.2.slot i).tile = t ∧ (r.2.slot i).severity = q.severity ∧
      (r.2.slot i).face = q.face ∧ (r.2.slot i).window = q.window ∧ (r.2.slot i).poolEntry = q.poolEntry ∧
      (r.2.slot i).order = e.nextOrder ∧
      r.2.evidence.requests = min (e.requests + 1) 0xFFFFFFFF ∧ r.2.evidence.assigned = min (e.assigned + 1) 0xFFFFFFFF) ∧
    (∀ i, s.globals.evidenceEnable = 1 → (∀ j, (s.slot j).state ≠ .idle) → victim i →
      (∀ j, victim j → j ≠ i → (s.slot i).severity < (s.slot j).severity ∨
        (s.slot i).severity = (s.slot j).severity ∧ (s.slot j).order < (s.slot i).order) →
      let told : State := { s with
        strands := vtab fun k =>
          let b := (s.strand k).billet
          { s.strand k with
            billet := { b with
              holdList := b.holdList.map fun x =>
                if (s.slot i).poolEntry = some x.number then
                  { x with finding := { x.finding with evidence := .preEmpted, tile := none } }
                else x } }
        evidence := { asked with slots := vset e.slots i .cleared } }
      let ended := told.releaseStep
      s.requestCopy q =
        ((.assigned, some (s.slot i).tile),
          State.assignSlot
            { ended with evidence := { ended.evidence with preEmptions := min (e.preEmptions + 1) 0xFFFFFFFF } }
            i (s.slot i).tile q)) ∧
    (s.globals.evidenceEnable = 1 → (∀ i, (s.slot i).state ≠ .idle) → (∀ i, ¬victim i) →
      s.requestCopy q = ((.busy, none), { s with evidence := { asked with busy := min (e.busy + 1) 0xFFFFFFFF } }))) ∧
  (∀ (s : State) (i : Fin 4) (t : Fin 64) (q : CopyRequest),
    let e := s.evidence
    let r := copyRange s.globals (s.window q.window) (s.assembler q.window).lastCompleted q
    s.assignSlot i t q =
      State.chooseCopy
        { s with evidence := { e with
            nextOrder := e.nextOrder + 1
            assigned := min (e.assigned + 1) 0xFFFFFFFF
            slots := vset e.slots i
              { state := .queued, severity := q.severity, cls := q.cls, face := q.face, firstTravel := q.firstTravel
                lastTravel := q.lastTravel, window := q.window, tile := t, poolEntry := q.poolEntry, order := e.nextOrder
                oldestLine := r.oldestLine, rowCount := r.rowCount, firstCell := r.firstCell, lastCell := r.lastCell
                byteOffset := r.byteOffset, rowBytes := r.rowBytes, clipped := r.clipped, rowsReturned := 0, rowPos := 0
                readOutstanding := false, outcome := none, readErrors := 0 } } }) ∧
  ∀ s : State,
    let ready (i : Fin 4) : Prop := (s.slot i).state = .queued ∧ (s.slot i).outcome = none
    ((∃ i, (s.slot i).state = .copying) ∨ (∀ i, ¬ready i) → s.chooseCopy = s) ∧
    ∀ i, (∀ j, (s.slot j).state ≠ .copying) → ready i →
      (∀ j, ready j → j ≠ i → (s.slot j).severity < (s.slot i).severity ∨
        (s.slot j).severity = (s.slot i).severity ∧ (s.slot i).order < (s.slot j).order) →
      let c : State := { s with evidence := { s.evidence with
        slots := vset s.evidence.slots i { s.slot i with state := .copying } } }
      s.chooseCopy = if (s.slot i).rowCount = 0 then c.makeHeader i .clipped else c.makeRead i

/-! ### Control Page writes (R24 to R28, R41, R128, R167, R170 to R178) -/

/-- GLOBAL_ENABLE_ON in PASS, with the checks of R171 met: the part becomes STARTING, every block is marked, dirty or written at
the event, with its first-write mark set, the period timer runs, the ring and the tiles are emptied, sixteen zero records are to
be answered, and the shadow holds the byte (R172). In STARTING and RUN it changes nothing but that byte (R170). GLOBAL_ENABLE_OFF
in RUN with every strand and copy slot IDLE: the part becomes PASS, the Line Assemblers are abandoned, the period timer stops, and
nothing else changes (R173). In PASS it is taken with no change but the byte (R170), where no cross-check of R25 fails. That an
abandoned assembler, IDLE with no last completed line, has its current line and start stamp at 0 and its GAP flag clear is the
model's choice (log 2). The write is checked and answered OKAY at one event (the model's reading, log 7). -/
def Obligations.GlobalEnableMovesThePart : Prop :=
  ((∀ s : State, s.resetLow = false → s.path.controlInFlight = none → s.part = .pass →
     s.globalChecks (Memory.write s.shadow 0 1) = true →
     ∃ t, exec .globalEnableOn s = .next t ∧
       t.part = .starting ∧ t.shadow = Memory.write s.shadow 0 1 ∧
       t.statusTimer = some (s.timeBase + 1000 * s.globals.statusPeriod) ∧
       (∀ b, s.noted t b ∧ (t.mark b).firstWrite = true) ∧
       t.ring = { s.ring with put := 0, writesPending := 0 } ∧ (∀ i, t.tile i = .free) ∧ t.zeroUnanswered = 16 ∧
       (∀ k, t.unit k = s.unit k ∧ t.predictor k = s.predictor k ∧
         t.billet k = { s.billet k with close := .idle, inHand := none, finalWaiting := none }) ∧
       t.faces = s.faces ∧ t.tracks = s.tracks ∧ t.lineQueue = s.lineQueue ∧ t.assemblers = s.assemblers ∧
       t.causes.pending = s.causes.pending ∧ t.causes.posted = s.causes.posted ∧ t.path = s.opened.path) ∧
   ∀ s : State, s.resetLow = false → s.path.controlInFlight = none → s.part ≠ .pass →
     Answers .globalEnableOn s { s.opened with shadow := Memory.write s.shadow 0 1 }) ∧
  (∀ s : State, s.resetLow = false → s.path.controlInFlight = none → s.part = .run → s.quiet = true →
    Answers .globalEnableOff s
      { s.opened with
        part := .pass, statusTimer := none, assemblers := Vector.replicate 16 .reset
        shadow := Memory.write s.shadow 0 0 }) ∧
  ∀ s : State, s.resetLow = false → s.path.controlInFlight = none → s.part = .pass →
    crossChecks s.shadow (Memory.write s.shadow 0 0) = true → Memory.wf s.shadow = true →
    Answers .globalEnableOff s { s.opened with shadow := Memory.write s.shadow 0 0 }

/-- Control Page writes that their own checks refuse, each with its reason and address (R6, R24, R25, R41, R46, R47, R128, R170,
R171, R173, R176): an argument out of range, settings out of range, the wrong part state, strand state or head state, a get index
out of range. That such a command is checked at one event and makes no Outstanding Table record, where R6 gives a refused
transaction one, is the model's reading (log 7). The reason of a write over several areas is that of the first area, in ascending
order of offset, that fails, and within an area that of the first test, in R175's order (R174 to R177): the Global Settings, the
unlocked words, the action words, the Window Table, the Face Settings, the Strand Settings, the Filter Table. An action word
covered in part fails; each covered whole is decided against the state as the write leaves it before that action, with every area
merged (R174); that each action word is an area of its own is the model's reading (log 18), and the order of the merge's own
effects its choice (log 17). -/
def Obligations.ControlWritesAreRefusedByName : Prop :=
  (∀ (s : State) (cells : List Host.Cell),
    let m := s.shadow
    let m' := (cells.filter fun c => decide (c.1 < 0x110 ∨ 0x400 ≤ c.1 ∧ c.1 < 0xE80)).foldl
      (fun a c => Memory.write a c.1 c.2) m
    let covered (offset n : Nat) : Prop := ∃ c ∈ cells, offset ≤ c.1 ∧ c.1 < offset + n
    let given (offset : Nat) : Option Byte := (cells.find? fun c => c.1 == offset).map (·.2)
    let bad (offset : Nat) : Bool := (given offset).any fun b => decide (2 ≤ b.toNat)
    let on (a : List Host.Cell) (offset : Nat) : Prop := Memory.read a offset = 1
    s.checkControl cells =
      ([s.checkGlobal cells, s.checkUnlocked cells,
          State.checkActions cells (List.finRange 7) (s.mergeControl cells)] ++
        (List.finRange 16).map (s.checkWindow cells) ++ (List.finRange 16).map (s.checkFace cells) ++
        (List.finRange 4).map (s.checkStrand cells) ++ (List.finRange 8).map (s.checkFilter cells)).findSome? id ∧
    s.checkGlobal cells =
      (if ¬covered 0 0x100 then none
      else if on m 0 ∧ covered 1 0xFF then some .entryLocked
      else if bad 0 then some .checkFailed
      else match s.part with
        | .pass =>
          if crossChecks m m' = true ∧ (on m' 0 → s.globalChecks m' = true) then none else some .checkFailed
        | .starting => if given 0 = some 0 then some .stateForbids else none
        | .run => if given 0 = some 0 ∧ s.quiet = false then some .stateForbids else none) ∧
    s.checkUnlocked cells =
      (let get := Memory.field m' 0x108 2
      if ¬covered 0x100 0x10 then none
      else if 1023 < get then some .checkFailed
      else if s.part ≠ .pass ∧ (s.ring.put + 1024 - s.getIndex) % 1024 < (s.ring.put + 1024 - get) % 1024 then
        some .getRange
      else none) ∧
    (∀ w : Fin 16,
      let a := 0x400 + w.val * 0x40
      s.checkWindow cells w =
        if ¬covered a 0x40 then none
        else if on m a ∧ covered (a + 1) 0x3F then some .entryLocked
        else if bad a then some .checkFailed
        else if ¬on m a ∧ on m' a ∧ s.enableChecks m' w = false then some .checkFailed
        else none) ∧
    (∀ k : Fin 16, s.checkFace cells k =
      if covered (0x800 + k.val * 0x40) 0x40 ∧ s.feeding k ≠ none then some .entryLocked else none) ∧
    (∀ k : Fin 4, s.checkStrand cells k =
      if covered (0xC00 + k.val * 0x80) 0x80 ∧ (s.unit k).state ≠ .idle then some .entryLocked else none) ∧
    (∀ i : Fin 8,
      let a := 0xE00 + i.val * 0x10
      s.checkFilter cells i =
        if ¬covered a 0x10 then none
        else if on m a ∧ covered (a + 1) 0xF then some .entryLocked
        else if bad a then some .checkFailed
        else if ¬on m a ∧ on m' a ∧ 2 < Memory.field m' (a + 1) 1 then some .checkFailed
        else none) ∧
    (∀ u : State, State.checkActions cells [] u = none) ∧
    ∀ (n : Fin 7) (rest : List (Fin 7)) (u : State),
      let word := (cells.filter fun c => decide (0x200 + n.val * 8 ≤ c.1 ∧ c.1 < 0x208 + n.val * 8)).map (·.2)
      let b : Byte := word.headD 0
      let reason : Option Reason :=
        if n.val = 0 then
          if h : b.toNat < 4 then
            if u.part ≠ .run ∨ (u.unit ⟨b.toNat, h⟩).state ≠ .idle then some .stateForbids
            else if (u.settings ⟨b.toNat, h⟩).ok = false then some .checkFailed
            else none
          else some .checkFailed
        else if n.val = 1 ∨ n.val = 2 then
          if h : b.toNat < 4 then
            if (u.unit ⟨b.toNat, h⟩).state ≠ .casting ∧ (u.unit ⟨b.toNat, h⟩).state ≠ .held then some .stateForbids
            else none
          else some .checkFailed
        else if n.val = 3 then
          if h : b.toNat < 16 then
            if (u.face ⟨b.toNat, h⟩).head.state ≠ .off then some .stateForbids else none
          else some .checkFailed
        else none
      State.checkActions cells (n :: rest) u =
        if word = [] then State.checkActions cells rest u
        else if word.length ≠ 8 then some .checkFailed
        else if reason = none then State.checkActions cells rest (u.performAction (actionWord n word))
        else reason) ∧
  ∀ s : State, s.resetLow = false → s.path.controlInFlight = none →
    (∀ a : Byte, 4 ≤ a.toNat →
      Answers (.strandStart a) s (State.controlRefused s .checkFailed 0x200) ∧
      Answers (.strandStop a) s (State.controlRefused s .checkFailed 0x208) ∧
      Answers (.cutNow a) s (State.controlRefused s .checkFailed 0x210)) ∧
    (∀ a : Byte, 16 ≤ a.toNat → Answers (.headRestart a) s (State.controlRefused s .checkFailed 0x218)) ∧
    (∀ k : Fin 4, s.part ≠ .run ∨ (s.unit k).state ≠ .idle →
      Answers (.strandStart (BitVec.ofNat 8 k.val)) s (State.controlRefused s .stateForbids 0x200)) ∧
    (∀ k : Fin 4, s.part = .run → (s.unit k).state = .idle → (s.settings k).ok = false →
      Answers (.strandStart (BitVec.ofNat 8 k.val)) s (State.controlRefused s .checkFailed 0x200)) ∧
    (∀ k : Fin 4, (s.unit k).state = .idle ∨ (s.unit k).state = .stopping →
      Answers (.strandStop (BitVec.ofNat 8 k.val)) s (State.controlRefused s .stateForbids 0x208) ∧
      Answers (.cutNow (BitVec.ofNat 8 k.val)) s (State.controlRefused s .stateForbids 0x210)) ∧
    (∀ k : Fin 16, (s.face k).head.state ≠ .off →
      Answers (.headRestart (BitVec.ofNat 8 k.val)) s (State.controlRefused s .stateForbids 0x218)) ∧
    (s.part = .pass → s.globalChecks (Memory.write s.shadow 0 1) = false →
      Answers .globalEnableOn s (State.controlRefused s .checkFailed 0)) ∧
    (s.part = .pass → crossChecks s.shadow (Memory.write s.shadow 0 0) = false → Memory.wf s.shadow = true →
      Answers .globalEnableOff s (State.controlRefused s .checkFailed 0)) ∧
    (∀ w : Fin 16, s.windowEnabled w = false → Memory.wf s.shadow = true →
      s.enableChecks (Memory.write s.shadow (0x400 + w.val * 0x40) 1) w = false →
      Answers (.windowEnable w) s (State.controlRefused s .checkFailed (0x400 + w.val * 0x40))) ∧
    (∀ i : Fin 8, filterEnabled s.shadow i = false → 2 < (s.filter i).action → Memory.wf s.shadow = true →
      Answers (.filterEntryEnable i) s (State.controlRefused s .checkFailed (0xE00 + i.val * 0x10))) ∧
    (s.part = .starting → Answers .globalEnableOff s (State.controlRefused s .stateForbids 0)) ∧
    (s.part = .run → s.quiet = false → Answers .globalEnableOff s (State.controlRefused s .stateForbids 0)) ∧
    (∀ g : BitVec 16, 1023 < g.toNat → Memory.wf s.shadow = true →
      Answers (.ringGetIndexWrite g) s (State.controlRefused s .checkFailed 0x108)) ∧
    (∀ g : BitVec 16, g.toNat ≤ 1023 → Memory.wf s.shadow = true → s.part ≠ .pass →
      (s.ring.put + 1024 - s.getIndex) % 1024 < (s.ring.put + 1024 - g.toNat) % 1024 →
      Answers (.ringGetIndexWrite g) s (State.controlRefused s .getRange 0x108))

/-- The checks of the settings. STRAND START finds every field of its entry in its range and the pitches in order (R46, R72, R87,
R114, R131). The enable checks of a Window Table entry (R20, R24): its fields in their ranges, its lines in their stride and its
ring in the window, the ring longer than twice GuardLines, no other enabled entry of its channel, and no byte shared with another
enabled entry, the MiB at CTLBASE or the pool, its remap range included. The checks of Global Enable (R171), and the cross-checks
of a Global Settings write made in PASS, whatever Global Enable it leaves (R25). That an entry which the same write disables still
counts as enabled, and that an entry with Remap 0 has no remap range, is the model's reading (log 34). -/
def Obligations.SettingsRangesAreChecked : Prop :=
  let share (a n b m : Nat) : Prop := ∃ c, a ≤ c ∧ c < a + n ∧ b ≤ c ∧ c < b + m
  let pool (g : Globals) : Nat := if 4 < g.tileSizeLog then 0 else g.tileCount * (65536 * 2 ^ g.tileSizeLog)
  let meetsPool (g : Globals) (x : Window) : Prop :=
    share g.evidenceBase (pool g) x.base (2 ^ x.sizeLog) ∨
      x.remap = 1 ∧ share g.evidenceBase (pool g) x.remapBase (2 ^ x.sizeLog)
  (∀ x : StrandSettings, x.ok = true ↔
    ¬(x.incInt = 0 ∧ x.incFrac = 0) ∧ x.cutSource ≤ 3 ∧ 1 ≤ x.minPulseInterval ∧
    (1 ≤ x.holdTime ∧ x.holdTime ≤ 10000) ∧ (x.cutPeriod = 0 ∨ 256 ≤ x.cutPeriod ∧ x.cutPeriod ≤ 2 ^ 24) ∧
    (1 ≤ x.torchDistance ∧ x.torchDistance ≤ 2 ^ 24) ∧ x.minBilletLength ≤ 2 ^ 24 ∧
    1 ≤ x.deepContrast ∧ 1 ≤ x.gap ∧ 1 ≤ x.longMin ∧ (1 ≤ x.widthMax ∧ x.widthMax ≤ 512) ∧
    (1 ≤ x.transMinCells ∧ x.transMinCells ≤ 512) ∧ (1 ≤ x.markSpanCells ∧ x.markSpanCells ≤ 512) ∧
    (1 ≤ x.sevWidth ∧ x.sevWidth ≤ 512) ∧ (1 ≤ x.sevLength ∧ x.sevLength ≤ 2 ^ 24) ∧ 1 ≤ x.sevContrast ∧
    (1 ≤ x.missLimit ∧ x.missLimit ≤ 15) ∧ x.alertSeverity ≤ 3 ∧
    1 ≤ x.pitchMin ∧ x.pitchMin ≤ x.pitchMax ∧ x.pitchMin ≤ x.nominalPitch ∧ x.nominalPitch ≤ x.pitchMax ∧
    (1 ≤ x.alertTime ∧ x.alertTime ≤ 60000)) ∧
  (∀ (s : State) (m : List Host.Cell) (w : Fin 16),
    let x := Machine.window m w
    let g := Machine.globals m
    let size := 2 ^ x.sizeLog
    let cells := x.pixelsPerLine / 8
    let lineBytes := cells * (if x.pixelFormat = 0 then 8 else if x.pixelFormat = 1 then 10 else 12)
    s.enableChecks m w = true ↔
      (x.enable ≤ 1 ∧ (12 ≤ x.sizeLog ∧ x.sizeLog ≤ 28) ∧ x.remap ≤ 1 ∧ x.pixelFormat ≤ 2 ∧ x.faceChannel ≤ 15 ∧
        x.mirror ≤ 1 ∧ x.base % size = 0 ∧ x.remapBase % size = 0 ∧ (17 ≤ x.ringLines ∧ x.ringLines ≤ 4096) ∧
        (256 ≤ x.pixelsPerLine ∧ x.pixelsPerLine ≤ 4096) ∧ x.pixelsPerLine % 8 = 0 ∧ x.stride % 64 = 0 ∧
        x.firstCell + 4 ≤ cells ∧ x.firstCell + 3 ≤ x.lastCell ∧ x.lastCell + 1 ≤ cells ∧
        lineBytes ≤ x.stride ∧ x.stride * x.ringLines ≤ size) ∧
      2 * g.guardLines < x.ringLines ∧
      (∀ v, v ≠ w → (Memory.read s.shadow (0x400 + v.val * 0x40) = 1 ∨ Memory.read m (0x400 + v.val * 0x40) = 1) →
        let y := Machine.window m v
        x.faceChannel ≠ y.faceChannel ∧ ¬share x.base size y.base (2 ^ y.sizeLog)) ∧
      ¬share x.base size s.ctlBase (2 ^ 20) ∧ ¬meetsPool g x ∧
      (x.remap = 1 → ¬share x.remapBase size s.ctlBase (2 ^ 20))) ∧
  (∀ (s : State) (m : List Host.Cell),
    let g := Machine.globals m
    s.globalChecks m = true ↔
      g.evidenceEnable ≤ 1 ∧ g.tileSizeLog ≤ 4 ∧ g.tileCount ≤ 64 ∧ (g.evidenceEnable = 1 → 1 ≤ g.tileCount) ∧
      g.evidenceBase % 2 ^ 20 = 0 ∧ g.evidenceBase + pool g ≤ 2 ^ 40 ∧
      ¬share g.evidenceBase (pool g) s.ctlBase (2 ^ 20) ∧ (8 ≤ g.guardLines ∧ g.guardLines ≤ 2048) ∧
      (∀ w : Fin 16, Memory.read m (0x400 + w.val * 0x40) = 1 →
        ¬meetsPool g (Machine.window m w) ∧ 2 * g.guardLines < (Machine.window m w).ringLines) ∧
      g.marginLines ≤ 15 ∧ g.marginCells ≤ 15 ∧ (1 ≤ g.holdLimit ∧ g.holdLimit ≤ 1000) ∧
      (1 ≤ g.statusPeriod ∧ g.statusPeriod ≤ 1000) ∧ Memory.field m 0x108 2 = 0) ∧
  ∀ m m' : List Host.Cell,
    let g := Machine.globals m'
    crossChecks m m' = true ↔ ∀ w : Fin 16,
      (Memory.read m (0x400 + w.val * 0x40) = 1 ∨ Memory.read m' (0x400 + w.val * 0x40) = 1) →
      ¬meetsPool g (Machine.window m' w) ∧ 2 * g.guardLines < (Machine.window m' w).ringLines

/-- WINDOW_ENABLE of a disabled entry that meets the checks of R24: its assembler, head, capture and face counters and model are
set as R27 and R69 give them, an entry to SUSPENDED keeping the warm-up count, and the face is told uncovered. Of an enabled entry
it changes nothing but the byte written again (R26). WINDOW_DISABLE of an enabled entry whose face has no OPEN track and whose
window feeds no live copy slot, with no write held: its assembler is abandoned, its head and model become DISABLED, its queued
results stale, and the face is told uncovered; its counters keep their values (R28, R98). Of a disabled entry it changes nothing
but the byte (R26). WINDOW_DISABLE in general: the assembler is abandoned; the face's OPEN tracks close INTERRUPTED and its queued
results become stale (R98); the head and the model become DISABLED; every live slot of the window is aborted with outcome ABORTED
(R165), protection ends with a release step, the face is told uncovered and its block is marked; the byte is taken, and
transactions presented that can be taken are (R2). That an assembler set IDLE at an enable or a disable has its current line and
start stamp at 0 and its GAP flag clear (log 2), that several slots are aborted in ascending number (log 38), and that writes
released join the forwarding queue before the transactions taken (log 36), are the model's choices. The write is checked and
answered OKAY at one event (the model's reading, log 7). -/
def Obligations.WindowEnableAndDisableSetTheFace : Prop :=
  (∀ (s : State) (w : Fin 16),
    let k := (s.window w).channel
    let x := s.face k
    let blocked := (s.unit (strandOf k)).viewActive
    s.enableWindow w = State.markFace
      (State.uncoverFace
        { s with
          assemblers := vset s.assemblers w .reset
          faces := vset s.faces k
            { x with
              head := { state := .active, errors := 0, warning := false, goodRun := 0 }
              capture := .zero
              counts := .zero
              tracks := { TrackCounts.zero with openTracks := x.tracks.openTracks }
              model := { x.model with
                state := if blocked then .suspended else .warmUp
                warmUp := if blocked then x.model.warmUp else 0
                forView := blocked, forHead := false, lastStamp := none } } } k) k ∧
    let i := State.interruptFace { s with assemblers := vset s.assemblers w .reset } k
    let y := i.face k
    let off : State := { i with
      faces := vset i.faces k
        { y with
          head := { state := .disabled, errors := 0, warning := false, goodRun := 0 }
          model := { y.model with state := .disabled, forView := false, forHead := false } } }
    let sourced (j : Fin 4) : Bool := (off.slot j).state != .idle && (off.slot j).outcome == none && (off.slot j).window == w
    let ended := ((List.finRange 4).filter sourced).foldl (fun u j => u.abortSlot j .aborted) off
    s.disableWindow w = (ended.releaseStep.uncoverFace k).markFace k) ∧
  (∀ (s : State) (w : Fin 16), s.resetLow = false → s.path.controlInFlight = none → s.windowEnabled w = true →
    let d := s.opened.disableWindow w
    Answers (.windowDisable w) s
      (State.takePresented { d with shadow := Memory.write d.shadow (0x400 + w.val * 0x40) 0 })) ∧
  (∀ (s : State) (w : Fin 16), s.resetLow = false → s.path.controlInFlight = none →
     let m := Memory.write s.shadow (0x400 + w.val * 0x40) 1
     (s.windowEnabled w = false → s.enableChecks m w = true → Memory.wf s.shadow = true →
       let k := (Machine.window m w).channel
       let x := s.face k
       Answers (.windowEnable w) s
         (State.uncoverFace
           { s.opened with
             shadow := m
             assemblers := vset s.assemblers w .reset
             faces := vset s.faces k
               { x with
                 head := { state := .active, errors := 0, warning := false, goodRun := 0 }
                 capture := .zero
                 counts := .zero
                 tracks := { TrackCounts.zero with openTracks := x.tracks.openTracks }
                 model := { x.model with
                   state := if (s.unit (strandOf k)).viewActive then .suspended else .warmUp
                   warmUp := if (s.unit (strandOf k)).viewActive then x.model.warmUp else 0
                   forView := (s.unit (strandOf k)).viewActive, forHead := false, lastStamp := none } } }
           k)) ∧
     (s.windowEnabled w = true → Answers (.windowEnable w) s { s.opened with shadow := m })) ∧
  ∀ (s : State) (w : Fin 16), s.resetLow = false → s.path.controlInFlight = none → s.nothingPresented →
    let m := Memory.write s.shadow (0x400 + w.val * 0x40) 0
    (s.windowEnabled w = true →
      let k := (s.window w).channel
      let x := s.face k
      (∀ i t, s.track i = some t → t.face ≠ k) → (∀ i, (s.slot i).live = true → (s.slot i).window ≠ w) →
      s.path.held = [] →
      Answers (.windowDisable w) s
        { State.uncoverFace
            { s.opened with
              assemblers := vset s.assemblers w .reset
              faces := vset s.faces k
                { x with
                  head := { state := .disabled, errors := 0, warning := false, goodRun := 0 }
                  staleCount := x.queuedCount
                  model := { x.model with state := .disabled, forView := false, forHead := false } } } k
          with shadow := m }) ∧
    (s.windowEnabled w = false → Memory.wf s.shadow = true →
      Answers (.windowDisable w) s { s.opened with shadow := m })

/-- Bytes of the shadow taken in every part state. FILTER_ENTRY_ENABLE of a disabled entry whose Action is one of its three values
takes the byte and zeroes the entry's hit count; of an enabled entry it changes nothing but the byte; FILTER_ENTRY_DISABLE takes the
byte (R128, R149). The unlocked words, the get index where it is at most 1023 and, in STARTING and RUN, does not pass the put index
nor go back (R176): the word reads back as written, nothing but the shadow changes, and a changed word marks block 0 or 1. The write
is checked and answered OKAY at one event (the model's reading, log 7). -/
def Obligations.ShadowBytesAreTaken : Prop :=
  (∀ (s : State) (i : Fin 8), s.resetLow = false → s.path.controlInFlight = none → Memory.wf s.shadow = true →
      let a := 0xE00 + i.val * 0x10
      (filterEnabled s.shadow i = false → (s.filter i).action ≤ 2 →
        Answers (.filterEntryEnable i) s
          { s.opened with
            shadow := Memory.write s.shadow a 1
            ring := { s.ring with hits := vset s.ring.hits i 0 } }) ∧
      (filterEnabled s.shadow i = true →
        Answers (.filterEntryEnable i) s { s.opened with shadow := Memory.write s.shadow a 1 }) ∧
      Answers (.filterEntryDisable i) s { s.opened with shadow := Memory.write s.shadow a 0 }) ∧
  ∀ s : State, s.resetLow = false → s.path.controlInFlight = none → Memory.wf s.shadow = true →
    (∀ mask : BitVec 16, ∃ t, exec (.causeEnableMaskWrite mask) s = .next t ∧
      State.Settles { s.opened with shadow := t.shadow } t ∧ t.causeMask = mask ∧
      (∀ n, n ≠ 0x100 → n ≠ 0x101 → Memory.read t.shadow n = Memory.read s.shadow n) ∧
      (s.causeMask ≠ mask → s.noted t 0)) ∧
    ∀ g : BitVec 16, g.toNat ≤ 1023 →
      (s.part = .pass ∨
        (s.ring.put + 1024 - g.toNat) % 1024 ≤ (s.ring.put + 1024 - s.getIndex) % 1024) →
      ∃ t, exec (.ringGetIndexWrite g) s = .next t ∧
        State.Settles { s.opened with shadow := t.shadow } t ∧ t.getIndex = g.toNat ∧
        (∀ n, n ≠ 0x108 → n ≠ 0x109 → Memory.read t.shadow n = Memory.read s.shadow n) ∧
        (s.getIndex ≠ g.toNat → s.noted t 1)

/-- The actions that every part state takes (R41, R62, R167, R178). ACK VIEW: for each strand the mask names, a SET flag becomes
CLEAR when the view level is INACTIVE and ACKED when it is ACTIVE, and the strand's block is marked; the other flags and the
strands not named keep theirs. HEAD RESTART of an OFF head: it becomes RECOVERING with error counter 0, warning clear and good run
0, and the restart is counted; the model, the assembler and the tracks are not touched. RELEASE TILES: each READY tile of the pool
that the mask names becomes FREE and is counted; FREE and FILLING tiles, and tiles beyond TileCount, are unchanged. ACK CAUSES:
every cause whose bit is set becomes not pending and unposted, the others keep their marks, block 0 is marked when a named cause
was pending, and IRQ_N follows at that event. The write is checked and answered OKAY at one event (the model's reading, log 7). -/
def Obligations.ActionsTakeEffect : Prop :=
  (∀ (s : State) (mask : Byte), s.resetLow = false → s.path.controlInFlight = none →
    ∃ t, exec (.ackView mask) s = .next t ∧
      State.Settles
        { s.opened with strands := vtab fun k =>
            if mask.getLsbD k.val ∧ (s.unit k).viewFlag = .set then
              { s.strand k with unit := { s.unit k with
                  viewFlag := if (s.unit k).viewActive then .acked else .clear } }
            else s.strand k } t ∧
      ∀ k : Fin 4, mask.getLsbD k.val = true → (s.unit k).viewFlag = .set → s.noted t (strandBlock k)) ∧
  (∀ (s : State) (k : Fin 16), s.resetLow = false → s.path.controlInFlight = none → (s.face k).head.state = .off →
    Answers (.headRestart (BitVec.ofNat 8 k.val)) s
      { s.opened with
        faces := vset s.faces k
          { s.face k with
            head := { state := .recovering, errors := 0, warning := false, goodRun := 0 }
            capture := { (s.face k).capture with
              restarts := min ((s.face k).capture.restarts + 1) 0xFFFFFFFF } } }) ∧
  (∀ (s : State) (mask : BitVec 64), s.resetLow = false → s.path.controlInFlight = none →
    let freed (i : Fin 64) : Bool := mask.getLsbD i.val && i.val < s.globals.tileCount && s.tile i == .ready
    Answers (.releaseTiles mask) s
      { s.opened with evidence := { s.evidence with
          tiles := vtab fun i => if freed i then .free else s.tile i
          released := min (s.evidence.released + ((List.finRange 64).filter freed).length) 0xFFFFFFFF } }) ∧
  ∀ (s : State) (mask : BitVec 16), s.resetLow = false → s.path.controlInFlight = none →
    ∃ t, exec (.ackCauses mask) s = .next t ∧
      State.Settles
        { s.opened with causes := { s.causes with
            pending := s.causes.pending &&& ~~~mask.setWidth 14
            posted := s.causes.posted &&& ~~~mask.setWidth 14
            carried := s.causes.carried &&& ~~~mask.setWidth 14 } } t ∧
      (s.causes.pending &&& mask.setWidth 14 ≠ 0 → s.noted t 0) ∧
      (t.irqAsserted = true ↔ ∃ c : Cause, s.causes.pending.getLsbD c.bit = true ∧
        s.causes.posted.getLsbD c.bit = true ∧ mask.getLsbD c.bit = false ∧ s.causeMask.getLsbD c.bit = true)

/-- CONTROL_PAGE_SETTINGS_WRITE to the Strand Settings of an IDLE strand, or to the Face Settings of a channel that no
enabled window feeds: every covered byte is merged into the shadow, every other byte of the shadow reads as before, and
nothing else changes (R46, R68, R174). Refused with ENTRY-LOCKED: one that covers a byte of the entry of a strand that is not IDLE
(R46) or of a channel that is fed (R68), a byte other than Enable of an enabled Window Table entry (R26) or Filter Table entry
(R128), or a byte other than Global Enable of the Global Settings while it is 1 (R170). The premise is the invariant of
EveryStepKeepsTheInvariant. Any such write is decided by its checks (R174, R175): refused with the reason they give, or performed
whole, its bytes merged and its actions performed, after which transactions presented that can be taken are (R2), behind the writes
that it released (the model's choice, log 36). The write is checked and answered OKAY at one event (the model's reading, log 7). -/
def Obligations.SettingsAreMergedOrLocked : Prop :=
  (∀ (s : State) (offset : BitVec 14) (data : List Byte) (strobes : List Bool),
    s.resetLow = false → s.path.controlInFlight = none →
    (Instr.controlPageSettingsWrite offset data strobes).wellFormed = true →
    let cells : List Host.Cell := ((data.zip strobes).zipIdx offset.toNat).filterMap fun x =>
      if x.1.2 then some (x.2, x.1.1) else none
    (s.checkControl cells = none →
      Answers (.controlPageSettingsWrite offset data strobes) s (s.opened.applyControl cells).takePresented) ∧
    ∀ r, s.checkControl cells = some r →
      Answers (.controlPageSettingsWrite offset data strobes) s (State.controlRefused s r offset.toNat)) ∧
  ∀ (s : State) (offset : BitVec 14) (data : List Byte) (strobes : List Bool),
    s.resetLow = false → s.path.controlInFlight = none → s.nothingPresented → s.Inv →
    (Instr.controlPageSettingsWrite offset data strobes).wellFormed = true →
    let n := offset.toNat
    let merged : Prop := ∃ t, exec (.controlPageSettingsWrite offset data strobes) s = .next t ∧
      State.Settles { s.opened with shadow := t.shadow } t ∧
      ∀ i, Memory.read t.shadow i =
        if n ≤ i ∧ strobes[i - n]? = some true then data.getD (i - n) 0 else Memory.read s.shadow i
    let locked : Prop := Answers (.controlPageSettingsWrite offset data strobes) s
      (State.controlRefused s .entryLocked n)
    (∀ k : Fin 4, 0xC00 + k.val * 0x80 ≤ n → n + data.length ≤ 0xC80 + k.val * 0x80 →
      ((s.unit k).state = .idle → merged) ∧
      ((s.unit k).state ≠ .idle → strobes.any id = true → locked)) ∧
    (∀ k : Fin 16, 0x800 + k.val * 0x40 ≤ n → n + data.length ≤ 0x840 + k.val * 0x40 →
      (s.feeding k = none → merged) ∧
      ((s.feeding k).isSome = true → strobes.any id = true → locked)) ∧
    (∀ w : Fin 16, 0x400 + w.val * 0x40 ≤ n → n + data.length ≤ 0x440 + w.val * 0x40 → s.windowEnabled w = true →
      (∃ i, strobes[i]? = some true ∧ n + i ≠ 0x400 + w.val * 0x40) → locked) ∧
    (∀ i : Fin 8, 0xE00 + i.val * 0x10 ≤ n → n + data.length ≤ 0xE10 + i.val * 0x10 → filterEnabled s.shadow i = true →
      (∃ j, strobes[j]? = some true ∧ n + j ≠ 0xE00 + i.val * 0x10) → locked) ∧
    (n + data.length ≤ 0x100 → s.globals.enable = 1 → (∃ i, strobes[i]? = some true ∧ n + i ≠ 0) → locked)

/-! ### What is published -/

/-- Whatever the command, a change of a published field other than a travel-like one marks its block at that event: it is dirty,
or written at the event (R179, R180). Block 0: the part state, the pending causes, the cause-enable mask and the last-refusal
record. Block 1: the ring's, the pool's, the filter's and the Evidence Engine's published fields. A strand's block: its published
fields. A face channel's block: its published fields and its window's last completed line. That changes are told by comparing the
state before the event with the state after it is the model's choice (log 12). At the end of every event of a part that is not in
reset no block that qualifies is left while the Own Traffic Queue has a place: one is left exactly where the Status Writer waits,
and then the places not taken are owed (log 10). A block written at the event has its marks clear and its count raised by one; its
write stands in the queue with the bytes of its block and that count; no block above one that is left is written; and block 0,
where it is written, carries the causes pending (R180, R183). -/
def Obligations.PublishedChangesAreNoted : Prop :=
  (∀ (c : Instr) (s t : State), exec c s = .next t → s.resetLow = false → c ≠ .resetAssert → (∀ a b, c ≠ .resetRelease a b) →
    ((∃ b, (t.mark b).dirty = true ∧ (t.mark b).outstanding = false) ↔ ∃ n, (.statusWriter, n) ∈ t.own.waiters) ∧
    ((∃ n, (.statusWriter, n) ∈ t.own.waiters) → 8 ≤ t.own.queue.length + t.own.waiters.length) ∧
    (∀ b, (t.mark b).sequence ≠ (s.mark b).sequence →
      (t.mark b).sequence = (s.mark b).sequence + 1 ∧ (t.mark b).outstanding = true ∧ (t.mark b).dirty = false ∧
      (t.mark b).periodic = false ∧
      { tag := .statusBlock b, addr := BitVec.ofNat 40 (t.ctlBase + 0x4000 + b.val * 64), count := 64
        data := statusBytes t b (t.mark b).sequence : OwnTxn } ∈ t.own.queue ∧
      ∀ j, j < b → ¬((t.mark j).dirty = true ∧ (t.mark j).outstanding = false)) ∧
    ((t.mark 0).sequence ≠ (s.mark 0).sequence → t.causes.carried = t.causes.pending)) ∧
  ∀ (c : Instr) (s t : State), exec c s = .next t → (∀ a b, c ≠ .resetRelease a b) →
    ((s.part ≠ t.part ∨ s.causes.pending ≠ t.causes.pending ∨ s.causeMask ≠ t.causeMask ∨
        s.path.refusalReason ≠ t.path.refusalReason ∨ s.path.refusalAddr ≠ t.path.refusalAddr) → s.noted t 0) ∧
    (s.partPublished ≠ t.partPublished → s.noted t 1) ∧
    (∀ k : Fin 4, (s.strand k).published ≠ (t.strand k).published → s.noted t (strandBlock k)) ∧
    ∀ k : Fin 16, ((s.face k).published ≠ (t.face k).published ∨ s.lastCompletedOf k ≠ t.lastCompletedOf k) →
      s.noted t (faceBlock k)

/-- The layouts of Memory Formats. Every multi-byte field is little-endian (R184). The settings are the fields of the shadow at
the offsets and of the sizes of R185, and each cause has its bit. Every record the part writes has 64 bytes (R138, R145, R163,
R180): a ring record, each half of a billet record, a tile header and a status block, with each field of its table at its offset,
in the codes of R186, and every reserved byte and bit 0. That the tile counts and masks of block 1 take the tiles below TileCount
only is the model's reading (log 28). -/
def Obligations.RecordsAre64Bytes : Prop :=
  (∀ n v, (leBytes n v).length = n ∧ ∀ i, i < n → (leBytes n v)[i]? = some (BitVec.ofNat 8 (v / 256 ^ i))) ∧
  (∀ l, leNat l = (l.zipIdx.map fun x => x.1.toNat * 256 ^ x.2).sum) ∧
  (∀ (m : List Host.Cell) (a n : Nat),
    Memory.field m a n = ((List.range n).map fun i => (Memory.read m (a + i)).toNat * 256 ^ i).sum) ∧
  (∀ s : State,
    let f := Memory.field s.shadow
    s.globals =
      { enable := f 0x00 1, evidenceEnable := f 0x01 1, tileSizeLog := f 0x02 1, tileCount := f 0x03 1, marginLines := f 0x04 1
        marginCells := f 0x05 1, guardLines := f 0x06 2, evidenceBase := f 0x08 5, holdLimit := f 0x10 2
        statusPeriod := f 0x12 2 } ∧
    s.causeMask = BitVec.ofNat 16 (f 0x100 2) ∧ s.getIndex = f 0x108 2 ∧
    (∀ w : Fin 16,
      let a := 0x400 + w.val * 0x40
      s.window w =
        { enable := f (a + 0x00) 1, sizeLog := f (a + 0x01) 1, idCode := Memory.read s.shadow (a + 0x02)
          idMask := Memory.read s.shadow (a + 0x03), remap := f (a + 0x04) 1, pixelFormat := f (a + 0x05) 1
          faceChannel := f (a + 0x06) 1, mirror := f (a + 0x07) 1, base := f (a + 0x08) 5, remapBase := f (a + 0x10) 5
          ringLines := f (a + 0x18) 2, pixelsPerLine := f (a + 0x1A) 2, stride := f (a + 0x1C) 4, firstCell := f (a + 0x20) 2
          lastCell := f (a + 0x22) 2 }) ∧
    (∀ k : Fin 16, s.crackThreshold k = max 1 (f (0x800 + k.val * 0x40) 1)) ∧
    (∀ k : Fin 4,
      let a := 0xC00 + k.val * 0x80
      s.settings k =
        { incInt := f (a + 0x00) 1, cutSource := f (a + 0x01) 1, incFrac := f (a + 0x02) 2, minPulseInterval := f (a + 0x04) 2
          holdTime := f (a + 0x06) 2, cutAt := f (a + 0x08) 4, cutPeriod := f (a + 0x0C) 4, torchDistance := f (a + 0x10) 4
          minBilletLength := f (a + 0x14) 4, startBillet := f (a + 0x18) 4, minStep := f (a + 0x1C) 1
          deepContrast := f (a + 0x1D) 1, gap := f (a + 0x1E) 2, longMin := f (a + 0x20) 2, widthMax := f (a + 0x22) 2
          transMaxLen := f (a + 0x24) 2, transMinCells := f (a + 0x26) 2, markSpanCells := f (a + 0x28) 2
          sevWidth := f (a + 0x2A) 2, sevLength := f (a + 0x2C) 4, sevContrast := f (a + 0x30) 1, tolerance := f (a + 0x31) 1
          missLimit := f (a + 0x32) 1, alertSeverity := f (a + 0x33) 1, nominalPitch := f (a + 0x34) 2
          pitchMin := f (a + 0x36) 2, pitchMax := f (a + 0x38) 2, alertTime := f (a + 0x3A) 2 }) ∧
    ∀ i : Fin 8,
      let a := 0xE00 + i.val * 0x10
      s.filter i =
        { enable := f (a + 0x00) 1, action := f (a + 0x01) 1, code := BitVec.ofNat 16 (f (a + 0x02) 2)
          mask := BitVec.ofNat 16 (f (a + 0x04) 2) }) ∧
  let at_ (l : List Byte) (x : Nat × Nat × Nat) : Prop := (l.drop x.1).take x.2.1 = leBytes x.2.1 x.2.2
  ((∀ c n, flagBit c n = if c = true then 2 ^ n else 0) ∧ (∀ n v, orOnes n (some v) = v) ∧
    orOnes 1 none = 0xFF ∧ orOnes 2 none = 0xFFFF ∧
    [Cause.billet, .finding, .ringFull, .head, .view, .held, .cutReject, .glitch, .markLost, .evidence, .tilesOut, .trackLimit,
      .refused, .memErr].map (·.bit) = [0, 1, 2, 3, 4, 5, 6, 7, 8, 9, 10, 11, 12, 13] ∧
    (∀ c : Cause, c.mask.toNat = 2 ^ c.bit) ∧
    [FindingClass.corner, .longitudinal, .transverse, .markRoot].map (·.code) = [1, 2, 3, 4] ∧
    [Action.count, .publish, .evidence].map (·.code) = [0, 1, 2] ∧
    [EvidenceState.notAsked, .assigned, .busy, .noTile, .preEmpted].map (·.code) = [0, 1, 2, 3, 4] ∧
    [Machine.Outcome.complete, .clipped, .overrun, .aborted].map (·.code) = [1, 2, 3, 4] ∧
    [PartState.pass, .starting, .run].map (·.code) = [0, 1, 2] ∧
    [Reason.noRefusal, .ownId, .partRegion, .entryLocked, .checkFailed, .stateForbids, .getRange].map (·.code) =
      [0, 1, 2, 3, 4, 5, 6] ∧
    [StrandState.idle, .casting, .held, .stopping].map (·.code) = [0, 1, 2, 3] ∧
    (stopCode none = 0 ∧ ∀ f, stopCode (some (.owed, f)) = 1 ∧ stopCode (some (.queued, f)) = 2 ∧
      stopCode (some (.taken, f)) = 3) ∧
    [ViewFlag.clear, .set, .acked].map (·.code) = [0, 1, 2] ∧
    [Reject.noReject, .stateForbids, .shortTravel, .notAfter, .shortBillet, .pending].map (·.code) = [0, 1, 2, 3, 4, 5] ∧
    [Bank.bankA, .bankB].map (·.code) = [0, 1] ∧ [CloseState.idle, .taking, .recording].map (·.code) = [0, 1, 2] ∧
    [PredictorState.off, .seeking, .locked, .coasting].map (·.code) = [0, 1, 2, 3] ∧
    [SlotState.idle, .queued, .copying].map (·.code) = [0, 1, 2] ∧
    [HeadState.disabled, .active, .passive, .off, .recovering].map (·.code) = [0, 1, 2, 3, 4] ∧
    [ModelState.disabled, .warmUp, .ready, .suspended].map (·.code) = [0, 1, 2, 3]) ∧
  (∀ (f : Finding) (n : BitVec 32) (head : Nat),
    let l := ringRecord f n head
    l.length = 64 ∧
    ∀ x ∈ [(0x00, 4, n.toNat), (0x04, 1, f.strand.val), (0x05, 1, f.face.val), (0x06, 1, f.cls.code), (0x07, 1, f.severity),
        (0x08, 1,
          flagBit f.lowConf 0 + flagBit f.evicted 1 + flagBit f.interrupted 2 + flagBit f.cutSplit 3 + flagBit f.markWindow 4),
        (0x09, 1, orOnes 1 (f.filterHit.map (·.val))), (0x0A, 1, f.action.code), (0x0B, 1, f.evidence.code),
        (0x0C, 1, orOnes 1 (f.tile.map (·.val))), (0x0D, 1, 0), (0x0E, 2, f.key.toNat), (0x10, 8, f.firstTravel),
        (0x18, 8, f.firstTravel - head), (0x20, 8, f.length), (0x28, 2, f.minCell), (0x2A, 2, f.maxCell), (0x2C, 2, f.lines),
        (0x2E, 1, f.peak), (0x2F, 17, 0)], at_ l x) ∧
  (∀ (k : Fin 4) (w : Working),
    let a := billetFirstHalf k w
    let b := billetSecondHalf k w
    a.length = 64 ∧ b.length = 64 ∧
    (∀ x ∈ [(0x00, 4, w.billetNumber.toNat), (0x04, 1, k.val),
        (0x05, 1, flagBit w.first 0 + flagBit w.final 1 + flagBit w.overflow 2 + flagBit w.coverageLost 3), (0x06, 1, w.worst),
        (0x07, 1, w.coverageMask.toNat), (0x08, 8, w.head), (0x10, 8, w.tail), (0x18, 8, w.length), (0x20, 4, w.classes.corner),
        (0x24, 4, w.classes.longitudinal), (0x28, 4, w.classes.transverse), (0x2C, 4, w.classes.markRoot),
        (0x30, 4, w.severity3), (0x34, 2, orOnes 2 w.firstRing), (0x36, 10, 0)], at_ a x) ∧
    ∀ x ∈ [(0x00, 4, w.published), (0x04, 4, w.unpublished), (0x08, 4, w.unlisted), (0x0C, 4, w.evidenceRequested),
        (0x10, 4, w.billetNumber.toNat), (0x14, 1, k.val), (0x15, 43, 0)], at_ b x) ∧
  (∀ (z : Slot) (o : Machine.Outcome),
    let l := tileHeader z o
    l.length = 64 ∧
    ∀ x ∈ [(0x00, 1, o.code), (0x01, 1, z.tile.val), (0x02, 1, z.face.val), (0x03, 1, z.cls.code), (0x04, 1, z.severity),
        (0x05, 1, z.window.val),
        (0x06, 1, z.readErrors), (0x07, 1, 0), (0x08, 8, z.firstTravel), (0x10, 8, z.lastTravel),
        (0x18, 2, if z.rowsReturned = 0 then 0xFFFF else z.oldestLine), (0x1A, 2, z.rowsReturned), (0x1C, 2, z.rowBytes),
        (0x1E, 2, z.firstCell), (0x20, 2, z.lastCell), (0x22, 30, 0)], at_ l x) ∧
  (∀ (s : State) (b : Fin 22) (n : BitVec 32), (statusBytes s b n).length = 64 ∧ at_ (statusBytes s b n) (0x00, 4, n.toNat)) ∧
  (∀ (s : State) (n : BitVec 32),
    let e := s.evidence
    let r := s.ring
    let slot (i : Fin 4) : Nat := match (s.slot i).state with
      | .idle => 0
      | .queued => 1 + (s.slot i).tile.val * 4
      | .copying => 2 + (s.slot i).tile.val * 4
    (∀ x ∈ [(0x04, 1, s.part.code), (0x05, 1, s.path.refusalReason.code), (0x06, 2, s.causes.pending.toNat),
        (0x08, 2, s.causeMask.toNat), (0x0A, 6, 0), (0x10, 5, s.path.refusalAddr.toNat),
        (0x15, 43, 0)], at_ (statusBytes s 0 n) x) ∧
    ∀ x ∈ [(0x04, 2, (r.put + 1024 - r.writesPending) % 1024), (0x06, 2, s.getIndex), (0x08, 2, s.heldEntries),
        (0x0A, 1, s.freeTiles), (0x0B, 1, 0), (0x0C, 1, slot 0), (0x0D, 1, slot 1), (0x0E, 1, slot 2), (0x0F, 1, slot 3),
        (0x10, 8, s.readyTiles), (0x18, 1, r.written), (0x19, 1, r.full), (0x1A, 1, r.noHit), (0x1B, 1, vget r.hits 0),
        (0x1C, 1, vget r.hits 1), (0x1D, 1, vget r.hits 2), (0x1E, 1, vget r.hits 3), (0x1F, 1, vget r.hits 4),
        (0x20, 1, vget r.hits 5), (0x21, 1, vget r.hits 6), (0x22, 1, vget r.hits 7), (0x23, 1, e.requests),
        (0x24, 1, e.evidenceOff), (0x25, 1, e.assigned), (0x26, 1, e.busy), (0x27, 1, e.noTile), (0x28, 1, e.preEmptions),
        (0x29, 1, e.complete), (0x2A, 1, e.clipped), (0x2B, 1, e.overrun), (0x2C, 1, e.aborted), (0x2D, 1, e.released),
        (0x2E, 1, e.readErrors), (0x2F, 17, 0)], at_ (statusBytes s 1 n) x) ∧
  (∀ (s : State) (n : BitVec 32) (k : Fin 4),
    let u := s.unit k
    let p := s.predictor k
    let y := s.billet k
    let held := y.holdList.length
    let front : Option Nat := y.holdList.head?.map fun e => e.finding.firstTravel
    ∀ x ∈ [(0x04, 1,
          u.state.code + 4 * stopCode u.stopMarker + flagBit u.boundarySeen 4 + flagBit u.pendingBoundary.isSome 5 +
            flagBit u.viewActive 6 + flagBit y.alert 7),
        (0x05, 1, u.viewFlag.code + 4 * u.lastReject.code + 32 * y.published.code + 64 * y.close.code),
        (0x06, 1, u.watched.toNat + 16 * u.covered.toNat),
        (0x07, 1, u.gaps.length + 16 * (u.gaps.filter fun g => g.upTo.isNone).length),
        (0x08, 1,
          p.state.code + flagBit p.candidate.isSome 2 + 8 * p.missCount + flagBit (decide (held / 256 % 2 = 1)) 7),
        (0x09, 1, y.tally.worst + flagBit front.isSome 2), (0x0A, 1, held), (0x0B, 1, y.tally.count), (0x0C, 4, u.travel),
        (0x10, 2, u.billetNumber.toNat), (0x12, 1, u.fraction / 256), (0x13, 3, p.pitch), (0x16, 3, u.lastBoundary),
        (0x19, 3, y.headBoundary), (0x1C, 3, front.getD 0), (0x1F, 3, p.candidate.getD 0), (0x22, 3, p.lastMark),
        (0x25, 2, p.nextMark - p.lastMark), (0x27, 1, u.glitches), (0x28, 1, u.heldCount), (0x29, 1, u.acceptedCuts),
        (0x2A, 1, u.rejectedCuts), (0x2B, 1, u.viewBlocked), (0x2C, 1, u.gapMerges), (0x2D, 1, p.pulses), (0x2E, 1, p.pitchUsed),
        (0x2F, 1, p.pitchRejected), (0x30, 1, p.haltDiscards), (0x31, 1, p.observations), (0x32, 1, p.locks), (0x33, 1, p.hits),
        (0x34, 1, p.duplicates), (0x35, 1, p.strays), (0x36, 1, p.misses), (0x37, 1, p.lockLosses), (0x38, 1, y.findings),
        (0x39, 1, y.listed), (0x3A, 1, y.unlisted), (0x3B, 1, y.alerts), (0x3C, 1, y.publishedCount),
        (0x3D, 1, y.unpublishedCount), (0x3E, 1, y.discardedHolds), (0x3F, 1, y.billetsClosed)],
      at_ (statusBytes s (strandBlock k) n) x) ∧
  (∀ (s : State) (n : BitVec 32) (k : Fin 16),
    let h := (s.face k).head
    let m := (s.face k).model
    let c := (s.face k).capture
    let v := (s.face k).counts
    let g := (s.face k).tracks
    let last : Option Nat := match s.feeding k with
      | none => none
      | some w => (s.assembler w).lastCompleted
    ∀ x ∈ [(0x04, 1,
          h.state.code + flagBit h.warning 3 + 16 * m.state.code + flagBit m.forView 6 + flagBit m.forHead 7),
        (0x05, 1, g.openTracks + flagBit m.lastStamp.isNone 7), (0x06, 2, h.errors), (0x08, 1, h.goodRun), (0x09, 1, m.warmUp),
        (0x0A, 2, orOnes 2 last), (0x0C, 4, m.lastStamp.getD 0), (0x10, 2, c.completed), (0x12, 2, c.torn),
        (0x14, 2, c.sequenceGaps), (0x16, 2, c.memoryErrors), (0x18, 2, c.restarts), (0x1A, 2, v.admittedLines),
        (0x1C, 2, v.skipped), (0x1E, 2, v.late), (0x20, 2, v.noisy), (0x22, 2, v.queued), (0x24, 2, v.dropped),
        (0x26, 2, g.opened), (0x28, 2, g.splits), (0x2A, 2, g.findings), (0x2C, 2, g.oscMarks), (0x2E, 2, g.scales),
        (0x30, 2, g.evicted), (0x32, 2, g.droppedSegments), (0x34, 2, g.discardedResults), (0x36, 2, g.gapResults),
        (0x38, 8, 0)], at_ (statusBytes s (faceBlock k) n) x) ∧
  ∀ s : State,
    s.heldEntries = (s.billet 0).holdList.length + (s.billet 1).holdList.length + (s.billet 2).holdList.length +
      (s.billet 3).holdList.length ∧
    s.freeTiles = ((List.finRange 64).filter fun i => decide (i.val < s.globals.tileCount ∧ s.tile i = .free)).length ∧
    ∀ i : Fin 64, s.readyTiles / 2 ^ i.val % 2 =
      if i.val < s.globals.tileCount ∧ s.tile i = .ready then 1 else 0
end

