-- ==== Sys2Proof/Laws/Memory.lean ====
section
/-!
SUPPORT. The shadow as an addressed buffer: what a write changes, and that every write keeps the canonical form.
-/
namespace Sys2Proof.Machine

/-- Every cell of a list lies above an offset. -/
def Memory.above (a : Nat) (m : List Host.Cell) : Prop := ∀ d ∈ m, a < d.1

theorem Memory.wf_cons (c : Host.Cell) (m : List Host.Cell) :
    Memory.wf (c :: m) = true ↔ c.2 ≠ 0 ∧ Memory.above c.1 m ∧ Memory.wf m = true := by
  simp [Memory.wf, Memory.above, and_assoc]

/-- An offset below every listed one reads 0. -/
theorem Memory.read_above (m : List Host.Cell) (a : Nat) (h : Memory.above a m) : Memory.read m a = 0 := by
  induction m with
  | nil => rfl
  | cons c rest ih =>
    have hc : a < c.1 := h c (by simp)
    have : c.1 ≠ a := by omega
    simp only [Memory.read, this, if_false]
    exact ih fun d hd => h d (by simp [hd])

/-- A write leaves every other offset as it read, whatever the form of the buffer. -/
theorem Memory.read_write_other (m : List Host.Cell) (a b : Nat) (v : Byte) (h : a ≠ b) :
    Memory.read (Memory.write m a v) b = Memory.read m b := by
  induction m with
  | nil =>
    unfold Memory.write
    split <;> simp [Memory.read, h]
  | cons c rest ih =>
    unfold Memory.write
    split
    · split <;> simp [Memory.read, h]
    · split
      · next e => split <;> simp [Memory.read, ← e, h]
      · simp only [Memory.read, ih]

/-- What a byte reads after one byte was written. -/
theorem Memory.read_write (m : List Host.Cell) (a b : Nat) (v : Byte) (h : Memory.wf m = true) :
    Memory.read (Memory.write m a v) b = if b = a then v else Memory.read m b := by
  induction m with
  | nil =>
    unfold Memory.write
    by_cases hb : b = a
    · subst hb
      split
      · next hv => rw [if_pos rfl, hv]; rfl
      · simp [Memory.read]
    · have : ¬ a = b := fun h => hb h.symm
      split <;> simp [Memory.read, this]
  | cons c rest ih =>
    obtain ⟨hc, hab, hw⟩ := (Memory.wf_cons c rest).mp h
    have ih := ih hw
    unfold Memory.write
    by_cases h1 : a < c.1
    · rw [if_pos h1]
      by_cases hv : v = 0
      · rw [if_pos hv]
        by_cases hb : b = a
        · rw [if_pos hb, hv, hb]
          refine Memory.read_above _ _ ?_
          intro d hd
          rcases List.mem_cons.mp hd with h2 | h2
          · rw [h2]; exact h1
          · exact lt_trans h1 (hab d h2)
        · rw [if_neg hb]
      · rw [if_neg hv]
        by_cases hb : b = a
        · simp [Memory.read, hb]
        · have : ¬ a = b := fun h => hb h.symm
          simp [Memory.read, hb, this]
    · rw [if_neg h1]
      by_cases h2 : a = c.1
      · rw [if_pos h2]
        by_cases hv : v = 0
        · rw [if_pos hv]
          by_cases hb : b = a
          · rw [if_pos hb, hv, hb, h2]
            exact Memory.read_above _ _ hab
          · have : ¬ c.1 = b := fun h => hb (h2.trans h).symm
            rw [if_neg hb, Memory.read, if_neg this]
        · rw [if_neg hv]
          by_cases hb : b = a
          · simp [Memory.read, hb]
          · have h3 : ¬ a = b := fun h => hb h.symm
            have h4 : ¬ c.1 = b := fun h => hb (h2.trans h).symm
            simp [Memory.read, hb, h3, h4]
      · rw [if_neg h2]
        simp only [Memory.read]
        by_cases h3 : c.1 = b
        · have : ¬ b = a := by omega
          simp [h3, this]
        · rw [if_neg h3, ih, if_neg h3]

/-- A write's cells lie above an offset when the buffer's cells and the offset written do. -/
theorem Memory.above_write (m : List Host.Cell) (a b : Nat) (v : Byte) (h : Memory.above b m) (hb : b < a) :
    Memory.above b (Memory.write m a v) := by
  induction m with
  | nil =>
    unfold Memory.write
    split
    · exact h
    · intro d hd; simp at hd; rw [hd]; exact hb
  | cons c rest ih =>
    have hc : b < c.1 := h c (by simp)
    have hr : Memory.above b rest := fun d hd => h d (by simp [hd])
    have ih := ih hr
    unfold Memory.write
    split
    · split
      · exact h
      · intro d hd
        rcases List.mem_cons.mp hd with h2 | h2
        · rw [h2]; exact hb
        · exact h d h2
    · split
      · split
        · exact hr
        · intro d hd
          rcases List.mem_cons.mp hd with h2 | h2
          · rw [h2]; exact hb
          · exact hr d h2
      · intro d hd
        rcases List.mem_cons.mp hd with h2 | h2
        · rw [h2]; exact hc
        · exact ih d h2

/-- A write keeps the canonical form. -/
theorem Memory.wf_write (m : List Host.Cell) (a : Nat) (v : Byte) (h : Memory.wf m = true) :
    Memory.wf (Memory.write m a v) = true := by
  induction m with
  | nil =>
    unfold Memory.write
    split
    · rfl
    · next hv => exact (Memory.wf_cons _ _).mpr ⟨hv, (fun d hd => absurd hd (by simp)), rfl⟩
  | cons c rest ih =>
    obtain ⟨hc, hab, hw⟩ := (Memory.wf_cons c rest).mp h
    unfold Memory.write
    by_cases h1 : a < c.1
    · rw [if_pos h1]
      split
      · exact h
      · next hv =>
        refine (Memory.wf_cons _ _).mpr ⟨hv, ?_, h⟩
        intro d hd
        rcases List.mem_cons.mp hd with h2 | h2
        · rw [h2]; exact h1
        · exact lt_trans h1 (hab d h2)
    · rw [if_neg h1]
      by_cases h2 : a = c.1
      · rw [if_pos h2]
        split
        · exact hw
        · next hv => exact (Memory.wf_cons _ _).mpr ⟨hv, by rw [h2]; exact hab, hw⟩
      · rw [if_neg h2]
        have h3 : c.1 < a := by omega
        exact (Memory.wf_cons _ _).mpr ⟨hc, Memory.above_write rest a c.1 v hab h3, ih hw⟩

/-- Several writes keep the canonical form. -/
theorem Memory.wf_writeAll (cells m : List Host.Cell) (h : Memory.wf m = true) :
    Memory.wf (Memory.writeAll m cells) = true := by
  induction cells generalizing m with
  | nil => exact h
  | cons c rest ih => exact ih _ (Memory.wf_write m c.1 c.2 h)

/-- A byte that no written cell names reads as before. -/
theorem Memory.read_writeAll_other (cells m : List Host.Cell) (b : Nat) (h : Memory.wf m = true)
    (hb : ∀ c ∈ cells, c.1 ≠ b) : Memory.read (Memory.writeAll m cells) b = Memory.read m b := by
  induction cells generalizing m with
  | nil => rfl
  | cons c rest ih =>
    rw [Memory.writeAll, ih _ (Memory.wf_write m c.1 c.2 h) fun d hd => hb d (by simp [hd]),
      Memory.read_write m c.1 b c.2 h, if_neg (fun e => hb c (by simp) e.symm)]

end Sys2Proof.Machine
end

