-- ==== Sys2Proof/Laws/State.lean ====
section
/-!
SUPPORT. What each update of a part of State leaves in each field, and what the accessors read after an update. Every lemma
holds by computation; later proofs rewrite with these and unfold no record update.
-/
namespace Sys2Proof.Machine

variable (s : State)

/-! ### State.setStrand -/

@[simp] theorem State.setStrand_resetLow (k : Fin 4) (x : Strand) : (s.setStrand k x).resetLow = s.resetLow := rfl
@[simp] theorem State.setStrand_ctlStrap (k : Fin 4) (x : Strand) : (s.setStrand k x).ctlStrap = s.ctlStrap := rfl
@[simp] theorem State.setStrand_ownId (k : Fin 4) (x : Strand) : (s.setStrand k x).ownId = s.ownId := rfl
@[simp] theorem State.setStrand_timeBase (k : Fin 4) (x : Strand) : (s.setStrand k x).timeBase = s.timeBase := rfl
@[simp] theorem State.setStrand_path (k : Fin 4) (x : Strand) : (s.setStrand k x).path = s.path := rfl
@[simp] theorem State.setStrand_own (k : Fin 4) (x : Strand) : (s.setStrand k x).own = s.own := rfl
@[simp] theorem State.setStrand_shadow (k : Fin 4) (x : Strand) : (s.setStrand k x).shadow = s.shadow := rfl
@[simp] theorem State.setStrand_part (k : Fin 4) (x : Strand) : (s.setStrand k x).part = s.part := rfl
@[simp] theorem State.setStrand_zeroToQueue (k : Fin 4) (x : Strand) : (s.setStrand k x).zeroToQueue = s.zeroToQueue := rfl
@[simp] theorem State.setStrand_zeroUnanswered (k : Fin 4) (x : Strand) : (s.setStrand k x).zeroUnanswered = s.zeroUnanswered := rfl
@[simp] theorem State.setStrand_statusTimer (k : Fin 4) (x : Strand) : (s.setStrand k x).statusTimer = s.statusTimer := rfl
@[simp] theorem State.setStrand_marks (k : Fin 4) (x : Strand) : (s.setStrand k x).marks = s.marks := rfl
@[simp] theorem State.setStrand_causes (k : Fin 4) (x : Strand) : (s.setStrand k x).causes = s.causes := rfl
@[simp] theorem State.setStrand_assemblers (k : Fin 4) (x : Strand) : (s.setStrand k x).assemblers = s.assemblers := rfl
@[simp] theorem State.setStrand_faces (k : Fin 4) (x : Strand) : (s.setStrand k x).faces = s.faces := rfl
@[simp] theorem State.setStrand_strands (k : Fin 4) (x : Strand) : (s.setStrand k x).strands = vset s.strands k x := rfl
@[simp] theorem State.setStrand_lineQueue (k : Fin 4) (x : Strand) : (s.setStrand k x).lineQueue = s.lineQueue := rfl
@[simp] theorem State.setStrand_tracks (k : Fin 4) (x : Strand) : (s.setStrand k x).tracks = s.tracks := rfl
@[simp] theorem State.setStrand_ring (k : Fin 4) (x : Strand) : (s.setStrand k x).ring = s.ring := rfl
@[simp] theorem State.setStrand_evidence (k : Fin 4) (x : Strand) : (s.setStrand k x).evidence = s.evidence := rfl
@[simp] theorem State.setStrand_eventNumber (k : Fin 4) (x : Strand) : (s.setStrand k x).eventNumber = s.eventNumber := rfl
@[simp] theorem State.setStrand_choiceNumber (k : Fin 4) (x : Strand) : (s.setStrand k x).choiceNumber = s.choiceNumber := rfl
@[simp] theorem State.setStrand_pending (k : Fin 4) (x : Strand) : (s.setStrand k x).pending = s.pending := rfl

/-! ### State.setFace -/

@[simp] theorem State.setFace_resetLow (k : Fin 16) (x : Face) : (s.setFace k x).resetLow = s.resetLow := rfl
@[simp] theorem State.setFace_ctlStrap (k : Fin 16) (x : Face) : (s.setFace k x).ctlStrap = s.ctlStrap := rfl
@[simp] theorem State.setFace_ownId (k : Fin 16) (x : Face) : (s.setFace k x).ownId = s.ownId := rfl
@[simp] theorem State.setFace_timeBase (k : Fin 16) (x : Face) : (s.setFace k x).timeBase = s.timeBase := rfl
@[simp] theorem State.setFace_path (k : Fin 16) (x : Face) : (s.setFace k x).path = s.path := rfl
@[simp] theorem State.setFace_own (k : Fin 16) (x : Face) : (s.setFace k x).own = s.own := rfl
@[simp] theorem State.setFace_shadow (k : Fin 16) (x : Face) : (s.setFace k x).shadow = s.shadow := rfl
@[simp] theorem State.setFace_part (k : Fin 16) (x : Face) : (s.setFace k x).part = s.part := rfl
@[simp] theorem State.setFace_zeroToQueue (k : Fin 16) (x : Face) : (s.setFace k x).zeroToQueue = s.zeroToQueue := rfl
@[simp] theorem State.setFace_zeroUnanswered (k : Fin 16) (x : Face) : (s.setFace k x).zeroUnanswered = s.zeroUnanswered := rfl
@[simp] theorem State.setFace_statusTimer (k : Fin 16) (x : Face) : (s.setFace k x).statusTimer = s.statusTimer := rfl
@[simp] theorem State.setFace_marks (k : Fin 16) (x : Face) : (s.setFace k x).marks = s.marks := rfl
@[simp] theorem State.setFace_causes (k : Fin 16) (x : Face) : (s.setFace k x).causes = s.causes := rfl
@[simp] theorem State.setFace_assemblers (k : Fin 16) (x : Face) : (s.setFace k x).assemblers = s.assemblers := rfl
@[simp] theorem State.setFace_faces (k : Fin 16) (x : Face) : (s.setFace k x).faces = vset s.faces k x := rfl
@[simp] theorem State.setFace_strands (k : Fin 16) (x : Face) : (s.setFace k x).strands = s.strands := rfl
@[simp] theorem State.setFace_lineQueue (k : Fin 16) (x : Face) : (s.setFace k x).lineQueue = s.lineQueue := rfl
@[simp] theorem State.setFace_tracks (k : Fin 16) (x : Face) : (s.setFace k x).tracks = s.tracks := rfl
@[simp] theorem State.setFace_ring (k : Fin 16) (x : Face) : (s.setFace k x).ring = s.ring := rfl
@[simp] theorem State.setFace_evidence (k : Fin 16) (x : Face) : (s.setFace k x).evidence = s.evidence := rfl
@[simp] theorem State.setFace_eventNumber (k : Fin 16) (x : Face) : (s.setFace k x).eventNumber = s.eventNumber := rfl
@[simp] theorem State.setFace_choiceNumber (k : Fin 16) (x : Face) : (s.setFace k x).choiceNumber = s.choiceNumber := rfl
@[simp] theorem State.setFace_pending (k : Fin 16) (x : Face) : (s.setFace k x).pending = s.pending := rfl

/-! ### State.setAssembler -/

@[simp] theorem State.setAssembler_resetLow (w : Fin 16) (x : Assembler) : (s.setAssembler w x).resetLow = s.resetLow := rfl
@[simp] theorem State.setAssembler_ctlStrap (w : Fin 16) (x : Assembler) : (s.setAssembler w x).ctlStrap = s.ctlStrap := rfl
@[simp] theorem State.setAssembler_ownId (w : Fin 16) (x : Assembler) : (s.setAssembler w x).ownId = s.ownId := rfl
@[simp] theorem State.setAssembler_timeBase (w : Fin 16) (x : Assembler) : (s.setAssembler w x).timeBase = s.timeBase := rfl
@[simp] theorem State.setAssembler_path (w : Fin 16) (x : Assembler) : (s.setAssembler w x).path = s.path := rfl
@[simp] theorem State.setAssembler_own (w : Fin 16) (x : Assembler) : (s.setAssembler w x).own = s.own := rfl
@[simp] theorem State.setAssembler_shadow (w : Fin 16) (x : Assembler) : (s.setAssembler w x).shadow = s.shadow := rfl
@[simp] theorem State.setAssembler_part (w : Fin 16) (x : Assembler) : (s.setAssembler w x).part = s.part := rfl
@[simp] theorem State.setAssembler_zeroToQueue (w : Fin 16) (x : Assembler) : (s.setAssembler w x).zeroToQueue = s.zeroToQueue := rfl
@[simp] theorem State.setAssembler_zeroUnanswered (w : Fin 16) (x : Assembler) : (s.setAssembler w x).zeroUnanswered = s.zeroUnanswered := rfl
@[simp] theorem State.setAssembler_statusTimer (w : Fin 16) (x : Assembler) : (s.setAssembler w x).statusTimer = s.statusTimer := rfl
@[simp] theorem State.setAssembler_marks (w : Fin 16) (x : Assembler) : (s.setAssembler w x).marks = s.marks := rfl
@[simp] theorem State.setAssembler_causes (w : Fin 16) (x : Assembler) : (s.setAssembler w x).causes = s.causes := rfl
@[simp] theorem State.setAssembler_assemblers (w : Fin 16) (x : Assembler) : (s.setAssembler w x).assemblers = vset s.assemblers w x := rfl
@[simp] theorem State.setAssembler_faces (w : Fin 16) (x : Assembler) : (s.setAssembler w x).faces = s.faces := rfl
@[simp] theorem State.setAssembler_strands (w : Fin 16) (x : Assembler) : (s.setAssembler w x).strands = s.strands := rfl
@[simp] theorem State.setAssembler_lineQueue (w : Fin 16) (x : Assembler) : (s.setAssembler w x).lineQueue = s.lineQueue := rfl
@[simp] theorem State.setAssembler_tracks (w : Fin 16) (x : Assembler) : (s.setAssembler w x).tracks = s.tracks := rfl
@[simp] theorem State.setAssembler_ring (w : Fin 16) (x : Assembler) : (s.setAssembler w x).ring = s.ring := rfl
@[simp] theorem State.setAssembler_evidence (w : Fin 16) (x : Assembler) : (s.setAssembler w x).evidence = s.evidence := rfl
@[simp] theorem State.setAssembler_eventNumber (w : Fin 16) (x : Assembler) : (s.setAssembler w x).eventNumber = s.eventNumber := rfl
@[simp] theorem State.setAssembler_choiceNumber (w : Fin 16) (x : Assembler) : (s.setAssembler w x).choiceNumber = s.choiceNumber := rfl
@[simp] theorem State.setAssembler_pending (w : Fin 16) (x : Assembler) : (s.setAssembler w x).pending = s.pending := rfl

/-! ### State.setTrack -/

@[simp] theorem State.setTrack_resetLow (e : Fin 64) (x : Option Track) : (s.setTrack e x).resetLow = s.resetLow := rfl
@[simp] theorem State.setTrack_ctlStrap (e : Fin 64) (x : Option Track) : (s.setTrack e x).ctlStrap = s.ctlStrap := rfl
@[simp] theorem State.setTrack_ownId (e : Fin 64) (x : Option Track) : (s.setTrack e x).ownId = s.ownId := rfl
@[simp] theorem State.setTrack_timeBase (e : Fin 64) (x : Option Track) : (s.setTrack e x).timeBase = s.timeBase := rfl
@[simp] theorem State.setTrack_path (e : Fin 64) (x : Option Track) : (s.setTrack e x).path = s.path := rfl
@[simp] theorem State.setTrack_own (e : Fin 64) (x : Option Track) : (s.setTrack e x).own = s.own := rfl
@[simp] theorem State.setTrack_shadow (e : Fin 64) (x : Option Track) : (s.setTrack e x).shadow = s.shadow := rfl
@[simp] theorem State.setTrack_part (e : Fin 64) (x : Option Track) : (s.setTrack e x).part = s.part := rfl
@[simp] theorem State.setTrack_zeroToQueue (e : Fin 64) (x : Option Track) : (s.setTrack e x).zeroToQueue = s.zeroToQueue := rfl
@[simp] theorem State.setTrack_zeroUnanswered (e : Fin 64) (x : Option Track) : (s.setTrack e x).zeroUnanswered = s.zeroUnanswered := rfl
@[simp] theorem State.setTrack_statusTimer (e : Fin 64) (x : Option Track) : (s.setTrack e x).statusTimer = s.statusTimer := rfl
@[simp] theorem State.setTrack_marks (e : Fin 64) (x : Option Track) : (s.setTrack e x).marks = s.marks := rfl
@[simp] theorem State.setTrack_causes (e : Fin 64) (x : Option Track) : (s.setTrack e x).causes = s.causes := rfl
@[simp] theorem State.setTrack_assemblers (e : Fin 64) (x : Option Track) : (s.setTrack e x).assemblers = s.assemblers := rfl
@[simp] theorem State.setTrack_faces (e : Fin 64) (x : Option Track) : (s.setTrack e x).faces = s.faces := rfl
@[simp] theorem State.setTrack_strands (e : Fin 64) (x : Option Track) : (s.setTrack e x).strands = s.strands := rfl
@[simp] theorem State.setTrack_lineQueue (e : Fin 64) (x : Option Track) : (s.setTrack e x).lineQueue = s.lineQueue := rfl
@[simp] theorem State.setTrack_tracks (e : Fin 64) (x : Option Track) : (s.setTrack e x).tracks = vset s.tracks e (trackEntry x) := rfl
@[simp] theorem State.setTrack_ring (e : Fin 64) (x : Option Track) : (s.setTrack e x).ring = s.ring := rfl
@[simp] theorem State.setTrack_evidence (e : Fin 64) (x : Option Track) : (s.setTrack e x).evidence = s.evidence := rfl
@[simp] theorem State.setTrack_eventNumber (e : Fin 64) (x : Option Track) : (s.setTrack e x).eventNumber = s.eventNumber := rfl
@[simp] theorem State.setTrack_choiceNumber (e : Fin 64) (x : Option Track) : (s.setTrack e x).choiceNumber = s.choiceNumber := rfl
@[simp] theorem State.setTrack_pending (e : Fin 64) (x : Option Track) : (s.setTrack e x).pending = s.pending := rfl

/-! ### State.setSlot -/

@[simp] theorem State.setSlot_resetLow (i : Fin 4) (x : Slot) : (s.setSlot i x).resetLow = s.resetLow := rfl
@[simp] theorem State.setSlot_ctlStrap (i : Fin 4) (x : Slot) : (s.setSlot i x).ctlStrap = s.ctlStrap := rfl
@[simp] theorem State.setSlot_ownId (i : Fin 4) (x : Slot) : (s.setSlot i x).ownId = s.ownId := rfl
@[simp] theorem State.setSlot_timeBase (i : Fin 4) (x : Slot) : (s.setSlot i x).timeBase = s.timeBase := rfl
@[simp] theorem State.setSlot_path (i : Fin 4) (x : Slot) : (s.setSlot i x).path = s.path := rfl
@[simp] theorem State.setSlot_own (i : Fin 4) (x : Slot) : (s.setSlot i x).own = s.own := rfl
@[simp] theorem State.setSlot_shadow (i : Fin 4) (x : Slot) : (s.setSlot i x).shadow = s.shadow := rfl
@[simp] theorem State.setSlot_part (i : Fin 4) (x : Slot) : (s.setSlot i x).part = s.part := rfl
@[simp] theorem State.setSlot_zeroToQueue (i : Fin 4) (x : Slot) : (s.setSlot i x).zeroToQueue = s.zeroToQueue := rfl
@[simp] theorem State.setSlot_zeroUnanswered (i : Fin 4) (x : Slot) : (s.setSlot i x).zeroUnanswered = s.zeroUnanswered := rfl
@[simp] theorem State.setSlot_statusTimer (i : Fin 4) (x : Slot) : (s.setSlot i x).statusTimer = s.statusTimer := rfl
@[simp] theorem State.setSlot_marks (i : Fin 4) (x : Slot) : (s.setSlot i x).marks = s.marks := rfl
@[simp] theorem State.setSlot_causes (i : Fin 4) (x : Slot) : (s.setSlot i x).causes = s.causes := rfl
@[simp] theorem State.setSlot_assemblers (i : Fin 4) (x : Slot) : (s.setSlot i x).assemblers = s.assemblers := rfl
@[simp] theorem State.setSlot_faces (i : Fin 4) (x : Slot) : (s.setSlot i x).faces = s.faces := rfl
@[simp] theorem State.setSlot_strands (i : Fin 4) (x : Slot) : (s.setSlot i x).strands = s.strands := rfl
@[simp] theorem State.setSlot_lineQueue (i : Fin 4) (x : Slot) : (s.setSlot i x).lineQueue = s.lineQueue := rfl
@[simp] theorem State.setSlot_tracks (i : Fin 4) (x : Slot) : (s.setSlot i x).tracks = s.tracks := rfl
@[simp] theorem State.setSlot_ring (i : Fin 4) (x : Slot) : (s.setSlot i x).ring = s.ring := rfl
@[simp] theorem State.setSlot_evidence (i : Fin 4) (x : Slot) : (s.setSlot i x).evidence = { s.evidence with slots := vset s.evidence.slots i x } := rfl
@[simp] theorem State.setSlot_eventNumber (i : Fin 4) (x : Slot) : (s.setSlot i x).eventNumber = s.eventNumber := rfl
@[simp] theorem State.setSlot_choiceNumber (i : Fin 4) (x : Slot) : (s.setSlot i x).choiceNumber = s.choiceNumber := rfl
@[simp] theorem State.setSlot_pending (i : Fin 4) (x : Slot) : (s.setSlot i x).pending = s.pending := rfl

/-! ### State.setTile -/

@[simp] theorem State.setTile_resetLow (i : Fin 64) (x : TileState) : (s.setTile i x).resetLow = s.resetLow := rfl
@[simp] theorem State.setTile_ctlStrap (i : Fin 64) (x : TileState) : (s.setTile i x).ctlStrap = s.ctlStrap := rfl
@[simp] theorem State.setTile_ownId (i : Fin 64) (x : TileState) : (s.setTile i x).ownId = s.ownId := rfl
@[simp] theorem State.setTile_timeBase (i : Fin 64) (x : TileState) : (s.setTile i x).timeBase = s.timeBase := rfl
@[simp] theorem State.setTile_path (i : Fin 64) (x : TileState) : (s.setTile i x).path = s.path := rfl
@[simp] theorem State.setTile_own (i : Fin 64) (x : TileState) : (s.setTile i x).own = s.own := rfl
@[simp] theorem State.setTile_shadow (i : Fin 64) (x : TileState) : (s.setTile i x).shadow = s.shadow := rfl
@[simp] theorem State.setTile_part (i : Fin 64) (x : TileState) : (s.setTile i x).part = s.part := rfl
@[simp] theorem State.setTile_zeroToQueue (i : Fin 64) (x : TileState) : (s.setTile i x).zeroToQueue = s.zeroToQueue := rfl
@[simp] theorem State.setTile_zeroUnanswered (i : Fin 64) (x : TileState) : (s.setTile i x).zeroUnanswered = s.zeroUnanswered := rfl
@[simp] theorem State.setTile_statusTimer (i : Fin 64) (x : TileState) : (s.setTile i x).statusTimer = s.statusTimer := rfl
@[simp] theorem State.setTile_marks (i : Fin 64) (x : TileState) : (s.setTile i x).marks = s.marks := rfl
@[simp] theorem State.setTile_causes (i : Fin 64) (x : TileState) : (s.setTile i x).causes = s.causes := rfl
@[simp] theorem State.setTile_assemblers (i : Fin 64) (x : TileState) : (s.setTile i x).assemblers = s.assemblers := rfl
@[simp] theorem State.setTile_faces (i : Fin 64) (x : TileState) : (s.setTile i x).faces = s.faces := rfl
@[simp] theorem State.setTile_strands (i : Fin 64) (x : TileState) : (s.setTile i x).strands = s.strands := rfl
@[simp] theorem State.setTile_lineQueue (i : Fin 64) (x : TileState) : (s.setTile i x).lineQueue = s.lineQueue := rfl
@[simp] theorem State.setTile_tracks (i : Fin 64) (x : TileState) : (s.setTile i x).tracks = s.tracks := rfl
@[simp] theorem State.setTile_ring (i : Fin 64) (x : TileState) : (s.setTile i x).ring = s.ring := rfl
@[simp] theorem State.setTile_evidence (i : Fin 64) (x : TileState) : (s.setTile i x).evidence = { s.evidence with tiles := vset s.evidence.tiles i x } := rfl
@[simp] theorem State.setTile_eventNumber (i : Fin 64) (x : TileState) : (s.setTile i x).eventNumber = s.eventNumber := rfl
@[simp] theorem State.setTile_choiceNumber (i : Fin 64) (x : TileState) : (s.setTile i x).choiceNumber = s.choiceNumber := rfl
@[simp] theorem State.setTile_pending (i : Fin 64) (x : TileState) : (s.setTile i x).pending = s.pending := rfl

/-! ### State.setMark -/

@[simp] theorem State.setMark_resetLow (b : Fin 22) (x : BlockMarks) : (s.setMark b x).resetLow = s.resetLow := rfl
@[simp] theorem State.setMark_ctlStrap (b : Fin 22) (x : BlockMarks) : (s.setMark b x).ctlStrap = s.ctlStrap := rfl
@[simp] theorem State.setMark_ownId (b : Fin 22) (x : BlockMarks) : (s.setMark b x).ownId = s.ownId := rfl
@[simp] theorem State.setMark_timeBase (b : Fin 22) (x : BlockMarks) : (s.setMark b x).timeBase = s.timeBase := rfl
@[simp] theorem State.setMark_path (b : Fin 22) (x : BlockMarks) : (s.setMark b x).path = s.path := rfl
@[simp] theorem State.setMark_own (b : Fin 22) (x : BlockMarks) : (s.setMark b x).own = s.own := rfl
@[simp] theorem State.setMark_shadow (b : Fin 22) (x : BlockMarks) : (s.setMark b x).shadow = s.shadow := rfl
@[simp] theorem State.setMark_part (b : Fin 22) (x : BlockMarks) : (s.setMark b x).part = s.part := rfl
@[simp] theorem State.setMark_zeroToQueue (b : Fin 22) (x : BlockMarks) : (s.setMark b x).zeroToQueue = s.zeroToQueue := rfl
@[simp] theorem State.setMark_zeroUnanswered (b : Fin 22) (x : BlockMarks) : (s.setMark b x).zeroUnanswered = s.zeroUnanswered := rfl
@[simp] theorem State.setMark_statusTimer (b : Fin 22) (x : BlockMarks) : (s.setMark b x).statusTimer = s.statusTimer := rfl
@[simp] theorem State.setMark_marks (b : Fin 22) (x : BlockMarks) : (s.setMark b x).marks = vset s.marks b x := rfl
@[simp] theorem State.setMark_causes (b : Fin 22) (x : BlockMarks) : (s.setMark b x).causes = s.causes := rfl
@[simp] theorem State.setMark_assemblers (b : Fin 22) (x : BlockMarks) : (s.setMark b x).assemblers = s.assemblers := rfl
@[simp] theorem State.setMark_faces (b : Fin 22) (x : BlockMarks) : (s.setMark b x).faces = s.faces := rfl
@[simp] theorem State.setMark_strands (b : Fin 22) (x : BlockMarks) : (s.setMark b x).strands = s.strands := rfl
@[simp] theorem State.setMark_lineQueue (b : Fin 22) (x : BlockMarks) : (s.setMark b x).lineQueue = s.lineQueue := rfl
@[simp] theorem State.setMark_tracks (b : Fin 22) (x : BlockMarks) : (s.setMark b x).tracks = s.tracks := rfl
@[simp] theorem State.setMark_ring (b : Fin 22) (x : BlockMarks) : (s.setMark b x).ring = s.ring := rfl
@[simp] theorem State.setMark_evidence (b : Fin 22) (x : BlockMarks) : (s.setMark b x).evidence = s.evidence := rfl
@[simp] theorem State.setMark_eventNumber (b : Fin 22) (x : BlockMarks) : (s.setMark b x).eventNumber = s.eventNumber := rfl
@[simp] theorem State.setMark_choiceNumber (b : Fin 22) (x : BlockMarks) : (s.setMark b x).choiceNumber = s.choiceNumber := rfl
@[simp] theorem State.setMark_pending (b : Fin 22) (x : BlockMarks) : (s.setMark b x).pending = s.pending := rfl

/-! ### State.setUnit -/

@[simp] theorem State.setUnit_resetLow (k : Fin 4) (x : StrandUnit) : (s.setUnit k x).resetLow = s.resetLow := rfl
@[simp] theorem State.setUnit_ctlStrap (k : Fin 4) (x : StrandUnit) : (s.setUnit k x).ctlStrap = s.ctlStrap := rfl
@[simp] theorem State.setUnit_ownId (k : Fin 4) (x : StrandUnit) : (s.setUnit k x).ownId = s.ownId := rfl
@[simp] theorem State.setUnit_timeBase (k : Fin 4) (x : StrandUnit) : (s.setUnit k x).timeBase = s.timeBase := rfl
@[simp] theorem State.setUnit_path (k : Fin 4) (x : StrandUnit) : (s.setUnit k x).path = s.path := rfl
@[simp] theorem State.setUnit_own (k : Fin 4) (x : StrandUnit) : (s.setUnit k x).own = s.own := rfl
@[simp] theorem State.setUnit_shadow (k : Fin 4) (x : StrandUnit) : (s.setUnit k x).shadow = s.shadow := rfl
@[simp] theorem State.setUnit_part (k : Fin 4) (x : StrandUnit) : (s.setUnit k x).part = s.part := rfl
@[simp] theorem State.setUnit_zeroToQueue (k : Fin 4) (x : StrandUnit) : (s.setUnit k x).zeroToQueue = s.zeroToQueue := rfl
@[simp] theorem State.setUnit_zeroUnanswered (k : Fin 4) (x : StrandUnit) : (s.setUnit k x).zeroUnanswered = s.zeroUnanswered := rfl
@[simp] theorem State.setUnit_statusTimer (k : Fin 4) (x : StrandUnit) : (s.setUnit k x).statusTimer = s.statusTimer := rfl
@[simp] theorem State.setUnit_marks (k : Fin 4) (x : StrandUnit) : (s.setUnit k x).marks = s.marks := rfl
@[simp] theorem State.setUnit_causes (k : Fin 4) (x : StrandUnit) : (s.setUnit k x).causes = s.causes := rfl
@[simp] theorem State.setUnit_assemblers (k : Fin 4) (x : StrandUnit) : (s.setUnit k x).assemblers = s.assemblers := rfl
@[simp] theorem State.setUnit_faces (k : Fin 4) (x : StrandUnit) : (s.setUnit k x).faces = s.faces := rfl
@[simp] theorem State.setUnit_lineQueue (k : Fin 4) (x : StrandUnit) : (s.setUnit k x).lineQueue = s.lineQueue := rfl
@[simp] theorem State.setUnit_tracks (k : Fin 4) (x : StrandUnit) : (s.setUnit k x).tracks = s.tracks := rfl
@[simp] theorem State.setUnit_ring (k : Fin 4) (x : StrandUnit) : (s.setUnit k x).ring = s.ring := rfl
@[simp] theorem State.setUnit_evidence (k : Fin 4) (x : StrandUnit) : (s.setUnit k x).evidence = s.evidence := rfl
@[simp] theorem State.setUnit_eventNumber (k : Fin 4) (x : StrandUnit) : (s.setUnit k x).eventNumber = s.eventNumber := rfl
@[simp] theorem State.setUnit_choiceNumber (k : Fin 4) (x : StrandUnit) : (s.setUnit k x).choiceNumber = s.choiceNumber := rfl
@[simp] theorem State.setUnit_pending (k : Fin 4) (x : StrandUnit) : (s.setUnit k x).pending = s.pending := rfl

/-! ### State.setPredictor -/

@[simp] theorem State.setPredictor_resetLow (k : Fin 4) (x : Predictor) : (s.setPredictor k x).resetLow = s.resetLow := rfl
@[simp] theorem State.setPredictor_ctlStrap (k : Fin 4) (x : Predictor) : (s.setPredictor k x).ctlStrap = s.ctlStrap := rfl
@[simp] theorem State.setPredictor_ownId (k : Fin 4) (x : Predictor) : (s.setPredictor k x).ownId = s.ownId := rfl
@[simp] theorem State.setPredictor_timeBase (k : Fin 4) (x : Predictor) : (s.setPredictor k x).timeBase = s.timeBase := rfl
@[simp] theorem State.setPredictor_path (k : Fin 4) (x : Predictor) : (s.setPredictor k x).path = s.path := rfl
@[simp] theorem State.setPredictor_own (k : Fin 4) (x : Predictor) : (s.setPredictor k x).own = s.own := rfl
@[simp] theorem State.setPredictor_shadow (k : Fin 4) (x : Predictor) : (s.setPredictor k x).shadow = s.shadow := rfl
@[simp] theorem State.setPredictor_part (k : Fin 4) (x : Predictor) : (s.setPredictor k x).part = s.part := rfl
@[simp] theorem State.setPredictor_zeroToQueue (k : Fin 4) (x : Predictor) : (s.setPredictor k x).zeroToQueue = s.zeroToQueue := rfl
@[simp] theorem State.setPredictor_zeroUnanswered (k : Fin 4) (x : Predictor) : (s.setPredictor k x).zeroUnanswered = s.zeroUnanswered := rfl
@[simp] theorem State.setPredictor_statusTimer (k : Fin 4) (x : Predictor) : (s.setPredictor k x).statusTimer = s.statusTimer := rfl
@[simp] theorem State.setPredictor_marks (k : Fin 4) (x : Predictor) : (s.setPredictor k x).marks = s.marks := rfl
@[simp] theorem State.setPredictor_causes (k : Fin 4) (x : Predictor) : (s.setPredictor k x).causes = s.causes := rfl
@[simp] theorem State.setPredictor_assemblers (k : Fin 4) (x : Predictor) : (s.setPredictor k x).assemblers = s.assemblers := rfl
@[simp] theorem State.setPredictor_faces (k : Fin 4) (x : Predictor) : (s.setPredictor k x).faces = s.faces := rfl
@[simp] theorem State.setPredictor_lineQueue (k : Fin 4) (x : Predictor) : (s.setPredictor k x).lineQueue = s.lineQueue := rfl
@[simp] theorem State.setPredictor_tracks (k : Fin 4) (x : Predictor) : (s.setPredictor k x).tracks = s.tracks := rfl
@[simp] theorem State.setPredictor_ring (k : Fin 4) (x : Predictor) : (s.setPredictor k x).ring = s.ring := rfl
@[simp] theorem State.setPredictor_evidence (k : Fin 4) (x : Predictor) : (s.setPredictor k x).evidence = s.evidence := rfl
@[simp] theorem State.setPredictor_eventNumber (k : Fin 4) (x : Predictor) : (s.setPredictor k x).eventNumber = s.eventNumber := rfl
@[simp] theorem State.setPredictor_choiceNumber (k : Fin 4) (x : Predictor) : (s.setPredictor k x).choiceNumber = s.choiceNumber := rfl
@[simp] theorem State.setPredictor_pending (k : Fin 4) (x : Predictor) : (s.setPredictor k x).pending = s.pending := rfl

/-! ### State.setBillet -/

@[simp] theorem State.setBillet_resetLow (k : Fin 4) (x : Billet) : (s.setBillet k x).resetLow = s.resetLow := rfl
@[simp] theorem State.setBillet_ctlStrap (k : Fin 4) (x : Billet) : (s.setBillet k x).ctlStrap = s.ctlStrap := rfl
@[simp] theorem State.setBillet_ownId (k : Fin 4) (x : Billet) : (s.setBillet k x).ownId = s.ownId := rfl
@[simp] theorem State.setBillet_timeBase (k : Fin 4) (x : Billet) : (s.setBillet k x).timeBase = s.timeBase := rfl
@[simp] theorem State.setBillet_path (k : Fin 4) (x : Billet) : (s.setBillet k x).path = s.path := rfl
@[simp] theorem State.setBillet_own (k : Fin 4) (x : Billet) : (s.setBillet k x).own = s.own := rfl
@[simp] theorem State.setBillet_shadow (k : Fin 4) (x : Billet) : (s.setBillet k x).shadow = s.shadow := rfl
@[simp] theorem State.setBillet_part (k : Fin 4) (x : Billet) : (s.setBillet k x).part = s.part := rfl
@[simp] theorem State.setBillet_zeroToQueue (k : Fin 4) (x : Billet) : (s.setBillet k x).zeroToQueue = s.zeroToQueue := rfl
@[simp] theorem State.setBillet_zeroUnanswered (k : Fin 4) (x : Billet) : (s.setBillet k x).zeroUnanswered = s.zeroUnanswered := rfl
@[simp] theorem State.setBillet_statusTimer (k : Fin 4) (x : Billet) : (s.setBillet k x).statusTimer = s.statusTimer := rfl
@[simp] theorem State.setBillet_marks (k : Fin 4) (x : Billet) : (s.setBillet k x).marks = s.marks := rfl
@[simp] theorem State.setBillet_causes (k : Fin 4) (x : Billet) : (s.setBillet k x).causes = s.causes := rfl
@[simp] theorem State.setBillet_assemblers (k : Fin 4) (x : Billet) : (s.setBillet k x).assemblers = s.assemblers := rfl
@[simp] theorem State.setBillet_faces (k : Fin 4) (x : Billet) : (s.setBillet k x).faces = s.faces := rfl
@[simp] theorem State.setBillet_lineQueue (k : Fin 4) (x : Billet) : (s.setBillet k x).lineQueue = s.lineQueue := rfl
@[simp] theorem State.setBillet_tracks (k : Fin 4) (x : Billet) : (s.setBillet k x).tracks = s.tracks := rfl
@[simp] theorem State.setBillet_ring (k : Fin 4) (x : Billet) : (s.setBillet k x).ring = s.ring := rfl
@[simp] theorem State.setBillet_evidence (k : Fin 4) (x : Billet) : (s.setBillet k x).evidence = s.evidence := rfl
@[simp] theorem State.setBillet_eventNumber (k : Fin 4) (x : Billet) : (s.setBillet k x).eventNumber = s.eventNumber := rfl
@[simp] theorem State.setBillet_choiceNumber (k : Fin 4) (x : Billet) : (s.setBillet k x).choiceNumber = s.choiceNumber := rfl
@[simp] theorem State.setBillet_pending (k : Fin 4) (x : Billet) : (s.setBillet k x).pending = s.pending := rfl

/-! ### State.setHead -/

@[simp] theorem State.setHead_resetLow (k : Fin 16) (x : Head) : (s.setHead k x).resetLow = s.resetLow := rfl
@[simp] theorem State.setHead_ctlStrap (k : Fin 16) (x : Head) : (s.setHead k x).ctlStrap = s.ctlStrap := rfl
@[simp] theorem State.setHead_ownId (k : Fin 16) (x : Head) : (s.setHead k x).ownId = s.ownId := rfl
@[simp] theorem State.setHead_timeBase (k : Fin 16) (x : Head) : (s.setHead k x).timeBase = s.timeBase := rfl
@[simp] theorem State.setHead_path (k : Fin 16) (x : Head) : (s.setHead k x).path = s.path := rfl
@[simp] theorem State.setHead_own (k : Fin 16) (x : Head) : (s.setHead k x).own = s.own := rfl
@[simp] theorem State.setHead_shadow (k : Fin 16) (x : Head) : (s.setHead k x).shadow = s.shadow := rfl
@[simp] theorem State.setHead_part (k : Fin 16) (x : Head) : (s.setHead k x).part = s.part := rfl
@[simp] theorem State.setHead_zeroToQueue (k : Fin 16) (x : Head) : (s.setHead k x).zeroToQueue = s.zeroToQueue := rfl
@[simp] theorem State.setHead_zeroUnanswered (k : Fin 16) (x : Head) : (s.setHead k x).zeroUnanswered = s.zeroUnanswered := rfl
@[simp] theorem State.setHead_statusTimer (k : Fin 16) (x : Head) : (s.setHead k x).statusTimer = s.statusTimer := rfl
@[simp] theorem State.setHead_marks (k : Fin 16) (x : Head) : (s.setHead k x).marks = s.marks := rfl
@[simp] theorem State.setHead_causes (k : Fin 16) (x : Head) : (s.setHead k x).causes = s.causes := rfl
@[simp] theorem State.setHead_assemblers (k : Fin 16) (x : Head) : (s.setHead k x).assemblers = s.assemblers := rfl
@[simp] theorem State.setHead_strands (k : Fin 16) (x : Head) : (s.setHead k x).strands = s.strands := rfl
@[simp] theorem State.setHead_lineQueue (k : Fin 16) (x : Head) : (s.setHead k x).lineQueue = s.lineQueue := rfl
@[simp] theorem State.setHead_tracks (k : Fin 16) (x : Head) : (s.setHead k x).tracks = s.tracks := rfl
@[simp] theorem State.setHead_ring (k : Fin 16) (x : Head) : (s.setHead k x).ring = s.ring := rfl
@[simp] theorem State.setHead_evidence (k : Fin 16) (x : Head) : (s.setHead k x).evidence = s.evidence := rfl
@[simp] theorem State.setHead_eventNumber (k : Fin 16) (x : Head) : (s.setHead k x).eventNumber = s.eventNumber := rfl
@[simp] theorem State.setHead_choiceNumber (k : Fin 16) (x : Head) : (s.setHead k x).choiceNumber = s.choiceNumber := rfl
@[simp] theorem State.setHead_pending (k : Fin 16) (x : Head) : (s.setHead k x).pending = s.pending := rfl

/-! ### State.setCapture -/

@[simp] theorem State.setCapture_resetLow (k : Fin 16) (x : CaptureCounts) : (s.setCapture k x).resetLow = s.resetLow := rfl
@[simp] theorem State.setCapture_ctlStrap (k : Fin 16) (x : CaptureCounts) : (s.setCapture k x).ctlStrap = s.ctlStrap := rfl
@[simp] theorem State.setCapture_ownId (k : Fin 16) (x : CaptureCounts) : (s.setCapture k x).ownId = s.ownId := rfl
@[simp] theorem State.setCapture_timeBase (k : Fin 16) (x : CaptureCounts) : (s.setCapture k x).timeBase = s.timeBase := rfl
@[simp] theorem State.setCapture_path (k : Fin 16) (x : CaptureCounts) : (s.setCapture k x).path = s.path := rfl
@[simp] theorem State.setCapture_own (k : Fin 16) (x : CaptureCounts) : (s.setCapture k x).own = s.own := rfl
@[simp] theorem State.setCapture_shadow (k : Fin 16) (x : CaptureCounts) : (s.setCapture k x).shadow = s.shadow := rfl
@[simp] theorem State.setCapture_part (k : Fin 16) (x : CaptureCounts) : (s.setCapture k x).part = s.part := rfl
@[simp] theorem State.setCapture_zeroToQueue (k : Fin 16) (x : CaptureCounts) : (s.setCapture k x).zeroToQueue = s.zeroToQueue := rfl
@[simp] theorem State.setCapture_zeroUnanswered (k : Fin 16) (x : CaptureCounts) : (s.setCapture k x).zeroUnanswered = s.zeroUnanswered := rfl
@[simp] theorem State.setCapture_statusTimer (k : Fin 16) (x : CaptureCounts) : (s.setCapture k x).statusTimer = s.statusTimer := rfl
@[simp] theorem State.setCapture_marks (k : Fin 16) (x : CaptureCounts) : (s.setCapture k x).marks = s.marks := rfl
@[simp] theorem State.setCapture_causes (k : Fin 16) (x : CaptureCounts) : (s.setCapture k x).causes = s.causes := rfl
@[simp] theorem State.setCapture_assemblers (k : Fin 16) (x : CaptureCounts) : (s.setCapture k x).assemblers = s.assemblers := rfl
@[simp] theorem State.setCapture_strands (k : Fin 16) (x : CaptureCounts) : (s.setCapture k x).strands = s.strands := rfl
@[simp] theorem State.setCapture_lineQueue (k : Fin 16) (x : CaptureCounts) : (s.setCapture k x).lineQueue = s.lineQueue := rfl
@[simp] theorem State.setCapture_tracks (k : Fin 16) (x : CaptureCounts) : (s.setCapture k x).tracks = s.tracks := rfl
@[simp] theorem State.setCapture_ring (k : Fin 16) (x : CaptureCounts) : (s.setCapture k x).ring = s.ring := rfl
@[simp] theorem State.setCapture_evidence (k : Fin 16) (x : CaptureCounts) : (s.setCapture k x).evidence = s.evidence := rfl
@[simp] theorem State.setCapture_eventNumber (k : Fin 16) (x : CaptureCounts) : (s.setCapture k x).eventNumber = s.eventNumber := rfl
@[simp] theorem State.setCapture_choiceNumber (k : Fin 16) (x : CaptureCounts) : (s.setCapture k x).choiceNumber = s.choiceNumber := rfl
@[simp] theorem State.setCapture_pending (k : Fin 16) (x : CaptureCounts) : (s.setCapture k x).pending = s.pending := rfl

/-! ### State.setModel -/

@[simp] theorem State.setModel_resetLow (k : Fin 16) (x : Model) : (s.setModel k x).resetLow = s.resetLow := rfl
@[simp] theorem State.setModel_ctlStrap (k : Fin 16) (x : Model) : (s.setModel k x).ctlStrap = s.ctlStrap := rfl
@[simp] theorem State.setModel_ownId (k : Fin 16) (x : Model) : (s.setModel k x).ownId = s.ownId := rfl
@[simp] theorem State.setModel_timeBase (k : Fin 16) (x : Model) : (s.setModel k x).timeBase = s.timeBase := rfl
@[simp] theorem State.setModel_path (k : Fin 16) (x : Model) : (s.setModel k x).path = s.path := rfl
@[simp] theorem State.setModel_own (k : Fin 16) (x : Model) : (s.setModel k x).own = s.own := rfl
@[simp] theorem State.setModel_shadow (k : Fin 16) (x : Model) : (s.setModel k x).shadow = s.shadow := rfl
@[simp] theorem State.setModel_part (k : Fin 16) (x : Model) : (s.setModel k x).part = s.part := rfl
@[simp] theorem State.setModel_zeroToQueue (k : Fin 16) (x : Model) : (s.setModel k x).zeroToQueue = s.zeroToQueue := rfl
@[simp] theorem State.setModel_zeroUnanswered (k : Fin 16) (x : Model) : (s.setModel k x).zeroUnanswered = s.zeroUnanswered := rfl
@[simp] theorem State.setModel_statusTimer (k : Fin 16) (x : Model) : (s.setModel k x).statusTimer = s.statusTimer := rfl
@[simp] theorem State.setModel_marks (k : Fin 16) (x : Model) : (s.setModel k x).marks = s.marks := rfl
@[simp] theorem State.setModel_causes (k : Fin 16) (x : Model) : (s.setModel k x).causes = s.causes := rfl
@[simp] theorem State.setModel_assemblers (k : Fin 16) (x : Model) : (s.setModel k x).assemblers = s.assemblers := rfl
@[simp] theorem State.setModel_strands (k : Fin 16) (x : Model) : (s.setModel k x).strands = s.strands := rfl
@[simp] theorem State.setModel_lineQueue (k : Fin 16) (x : Model) : (s.setModel k x).lineQueue = s.lineQueue := rfl
@[simp] theorem State.setModel_tracks (k : Fin 16) (x : Model) : (s.setModel k x).tracks = s.tracks := rfl
@[simp] theorem State.setModel_ring (k : Fin 16) (x : Model) : (s.setModel k x).ring = s.ring := rfl
@[simp] theorem State.setModel_evidence (k : Fin 16) (x : Model) : (s.setModel k x).evidence = s.evidence := rfl
@[simp] theorem State.setModel_eventNumber (k : Fin 16) (x : Model) : (s.setModel k x).eventNumber = s.eventNumber := rfl
@[simp] theorem State.setModel_choiceNumber (k : Fin 16) (x : Model) : (s.setModel k x).choiceNumber = s.choiceNumber := rfl
@[simp] theorem State.setModel_pending (k : Fin 16) (x : Model) : (s.setModel k x).pending = s.pending := rfl

/-! ### State.setCounts -/

@[simp] theorem State.setCounts_resetLow (k : Fin 16) (x : ModelCounts) : (s.setCounts k x).resetLow = s.resetLow := rfl
@[simp] theorem State.setCounts_ctlStrap (k : Fin 16) (x : ModelCounts) : (s.setCounts k x).ctlStrap = s.ctlStrap := rfl
@[simp] theorem State.setCounts_ownId (k : Fin 16) (x : ModelCounts) : (s.setCounts k x).ownId = s.ownId := rfl
@[simp] theorem State.setCounts_timeBase (k : Fin 16) (x : ModelCounts) : (s.setCounts k x).timeBase = s.timeBase := rfl
@[simp] theorem State.setCounts_path (k : Fin 16) (x : ModelCounts) : (s.setCounts k x).path = s.path := rfl
@[simp] theorem State.setCounts_own (k : Fin 16) (x : ModelCounts) : (s.setCounts k x).own = s.own := rfl
@[simp] theorem State.setCounts_shadow (k : Fin 16) (x : ModelCounts) : (s.setCounts k x).shadow = s.shadow := rfl
@[simp] theorem State.setCounts_part (k : Fin 16) (x : ModelCounts) : (s.setCounts k x).part = s.part := rfl
@[simp] theorem State.setCounts_zeroToQueue (k : Fin 16) (x : ModelCounts) : (s.setCounts k x).zeroToQueue = s.zeroToQueue := rfl
@[simp] theorem State.setCounts_zeroUnanswered (k : Fin 16) (x : ModelCounts) : (s.setCounts k x).zeroUnanswered = s.zeroUnanswered := rfl
@[simp] theorem State.setCounts_statusTimer (k : Fin 16) (x : ModelCounts) : (s.setCounts k x).statusTimer = s.statusTimer := rfl
@[simp] theorem State.setCounts_marks (k : Fin 16) (x : ModelCounts) : (s.setCounts k x).marks = s.marks := rfl
@[simp] theorem State.setCounts_causes (k : Fin 16) (x : ModelCounts) : (s.setCounts k x).causes = s.causes := rfl
@[simp] theorem State.setCounts_assemblers (k : Fin 16) (x : ModelCounts) : (s.setCounts k x).assemblers = s.assemblers := rfl
@[simp] theorem State.setCounts_strands (k : Fin 16) (x : ModelCounts) : (s.setCounts k x).strands = s.strands := rfl
@[simp] theorem State.setCounts_lineQueue (k : Fin 16) (x : ModelCounts) : (s.setCounts k x).lineQueue = s.lineQueue := rfl
@[simp] theorem State.setCounts_tracks (k : Fin 16) (x : ModelCounts) : (s.setCounts k x).tracks = s.tracks := rfl
@[simp] theorem State.setCounts_ring (k : Fin 16) (x : ModelCounts) : (s.setCounts k x).ring = s.ring := rfl
@[simp] theorem State.setCounts_evidence (k : Fin 16) (x : ModelCounts) : (s.setCounts k x).evidence = s.evidence := rfl
@[simp] theorem State.setCounts_eventNumber (k : Fin 16) (x : ModelCounts) : (s.setCounts k x).eventNumber = s.eventNumber := rfl
@[simp] theorem State.setCounts_choiceNumber (k : Fin 16) (x : ModelCounts) : (s.setCounts k x).choiceNumber = s.choiceNumber := rfl
@[simp] theorem State.setCounts_pending (k : Fin 16) (x : ModelCounts) : (s.setCounts k x).pending = s.pending := rfl

/-! ### State.setTrackCounts -/

@[simp] theorem State.setTrackCounts_resetLow (k : Fin 16) (x : TrackCounts) : (s.setTrackCounts k x).resetLow = s.resetLow := rfl
@[simp] theorem State.setTrackCounts_ctlStrap (k : Fin 16) (x : TrackCounts) : (s.setTrackCounts k x).ctlStrap = s.ctlStrap := rfl
@[simp] theorem State.setTrackCounts_ownId (k : Fin 16) (x : TrackCounts) : (s.setTrackCounts k x).ownId = s.ownId := rfl
@[simp] theorem State.setTrackCounts_timeBase (k : Fin 16) (x : TrackCounts) : (s.setTrackCounts k x).timeBase = s.timeBase := rfl
@[simp] theorem State.setTrackCounts_path (k : Fin 16) (x : TrackCounts) : (s.setTrackCounts k x).path = s.path := rfl
@[simp] theorem State.setTrackCounts_own (k : Fin 16) (x : TrackCounts) : (s.setTrackCounts k x).own = s.own := rfl
@[simp] theorem State.setTrackCounts_shadow (k : Fin 16) (x : TrackCounts) : (s.setTrackCounts k x).shadow = s.shadow := rfl
@[simp] theorem State.setTrackCounts_part (k : Fin 16) (x : TrackCounts) : (s.setTrackCounts k x).part = s.part := rfl
@[simp] theorem State.setTrackCounts_zeroToQueue (k : Fin 16) (x : TrackCounts) : (s.setTrackCounts k x).zeroToQueue = s.zeroToQueue := rfl
@[simp] theorem State.setTrackCounts_zeroUnanswered (k : Fin 16) (x : TrackCounts) : (s.setTrackCounts k x).zeroUnanswered = s.zeroUnanswered := rfl
@[simp] theorem State.setTrackCounts_statusTimer (k : Fin 16) (x : TrackCounts) : (s.setTrackCounts k x).statusTimer = s.statusTimer := rfl
@[simp] theorem State.setTrackCounts_marks (k : Fin 16) (x : TrackCounts) : (s.setTrackCounts k x).marks = s.marks := rfl
@[simp] theorem State.setTrackCounts_causes (k : Fin 16) (x : TrackCounts) : (s.setTrackCounts k x).causes = s.causes := rfl
@[simp] theorem State.setTrackCounts_assemblers (k : Fin 16) (x : TrackCounts) : (s.setTrackCounts k x).assemblers = s.assemblers := rfl
@[simp] theorem State.setTrackCounts_strands (k : Fin 16) (x : TrackCounts) : (s.setTrackCounts k x).strands = s.strands := rfl
@[simp] theorem State.setTrackCounts_lineQueue (k : Fin 16) (x : TrackCounts) : (s.setTrackCounts k x).lineQueue = s.lineQueue := rfl
@[simp] theorem State.setTrackCounts_tracks (k : Fin 16) (x : TrackCounts) : (s.setTrackCounts k x).tracks = s.tracks := rfl
@[simp] theorem State.setTrackCounts_ring (k : Fin 16) (x : TrackCounts) : (s.setTrackCounts k x).ring = s.ring := rfl
@[simp] theorem State.setTrackCounts_evidence (k : Fin 16) (x : TrackCounts) : (s.setTrackCounts k x).evidence = s.evidence := rfl
@[simp] theorem State.setTrackCounts_eventNumber (k : Fin 16) (x : TrackCounts) : (s.setTrackCounts k x).eventNumber = s.eventNumber := rfl
@[simp] theorem State.setTrackCounts_choiceNumber (k : Fin 16) (x : TrackCounts) : (s.setTrackCounts k x).choiceNumber = s.choiceNumber := rfl
@[simp] theorem State.setTrackCounts_pending (k : Fin 16) (x : TrackCounts) : (s.setTrackCounts k x).pending = s.pending := rfl

/-! ### Reading after an update -/

@[simp] theorem State.strand_setStrand (k j : Fin 4) (x : Strand) :
    (s.setStrand k x).strand j = if k = j then x else s.strand j := vget_vset ..
@[simp] theorem State.face_setFace (k j : Fin 16) (x : Face) :
    (s.setFace k x).face j = if k = j then x else s.face j := vget_vset ..
@[simp] theorem State.assembler_setAssembler (k j : Fin 16) (x : Assembler) :
    (s.setAssembler k x).assembler j = if k = j then x else s.assembler j := vget_vset ..
@[simp] theorem State.track_setTrack (k j : Fin 64) (x : Option Track) :
    (s.setTrack k x).track j = if k = j then x else s.track j := by
  simp only [State.track, State.setTrack, vget_vset]
  split <;> cases x <;> rfl
@[simp] theorem State.slot_setSlot (k j : Fin 4) (x : Slot) :
    (s.setSlot k x).slot j = if k = j then x else s.slot j := vget_vset ..
@[simp] theorem State.tile_setTile (k j : Fin 64) (x : TileState) :
    (s.setTile k x).tile j = if k = j then x else s.tile j := vget_vset ..
@[simp] theorem State.mark_setMark (k j : Fin 22) (x : BlockMarks) :
    (s.setMark k x).mark j = if k = j then x else s.mark j := vget_vset ..

@[simp] theorem State.strand_setFace (k : Fin 16) (x : Face) (j : Fin 4) : (s.setFace k x).strand j = s.strand j := rfl
@[simp] theorem State.strand_setAssembler (w : Fin 16) (x : Assembler) (j : Fin 4) : (s.setAssembler w x).strand j = s.strand j := rfl
@[simp] theorem State.strand_setTrack (e : Fin 64) (x : Option Track) (j : Fin 4) : (s.setTrack e x).strand j = s.strand j := rfl
@[simp] theorem State.strand_setSlot (i : Fin 4) (x : Slot) (j : Fin 4) : (s.setSlot i x).strand j = s.strand j := rfl
@[simp] theorem State.strand_setTile (i : Fin 64) (x : TileState) (j : Fin 4) : (s.setTile i x).strand j = s.strand j := rfl
@[simp] theorem State.strand_setMark (b : Fin 22) (x : BlockMarks) (j : Fin 4) : (s.setMark b x).strand j = s.strand j := rfl
@[simp] theorem State.strand_setHead (k : Fin 16) (x : Head) (j : Fin 4) : (s.setHead k x).strand j = s.strand j := rfl
@[simp] theorem State.strand_setCapture (k : Fin 16) (x : CaptureCounts) (j : Fin 4) : (s.setCapture k x).strand j = s.strand j := rfl
@[simp] theorem State.strand_setModel (k : Fin 16) (x : Model) (j : Fin 4) : (s.setModel k x).strand j = s.strand j := rfl
@[simp] theorem State.strand_setCounts (k : Fin 16) (x : ModelCounts) (j : Fin 4) : (s.setCounts k x).strand j = s.strand j := rfl
@[simp] theorem State.strand_setTrackCounts (k : Fin 16) (x : TrackCounts) (j : Fin 4) : (s.setTrackCounts k x).strand j = s.strand j := rfl
@[simp] theorem State.face_setStrand (k : Fin 4) (x : Strand) (j : Fin 16) : (s.setStrand k x).face j = s.face j := rfl
@[simp] theorem State.face_setAssembler (w : Fin 16) (x : Assembler) (j : Fin 16) : (s.setAssembler w x).face j = s.face j := rfl
@[simp] theorem State.face_setTrack (e : Fin 64) (x : Option Track) (j : Fin 16) : (s.setTrack e x).face j = s.face j := rfl
@[simp] theorem State.face_setSlot (i : Fin 4) (x : Slot) (j : Fin 16) : (s.setSlot i x).face j = s.face j := rfl
@[simp] theorem State.face_setTile (i : Fin 64) (x : TileState) (j : Fin 16) : (s.setTile i x).face j = s.face j := rfl
@[simp] theorem State.face_setMark (b : Fin 22) (x : BlockMarks) (j : Fin 16) : (s.setMark b x).face j = s.face j := rfl
@[simp] theorem State.face_setUnit (k : Fin 4) (x : StrandUnit) (j : Fin 16) : (s.setUnit k x).face j = s.face j := rfl
@[simp] theorem State.face_setPredictor (k : Fin 4) (x : Predictor) (j : Fin 16) : (s.setPredictor k x).face j = s.face j := rfl
@[simp] theorem State.face_setBillet (k : Fin 4) (x : Billet) (j : Fin 16) : (s.setBillet k x).face j = s.face j := rfl
@[simp] theorem State.unit_setUnit (k j : Fin 4) (x : StrandUnit) :
    (s.setUnit k x).unit j = if k = j then x else s.unit j := by
  simp only [State.unit, State.setUnit, State.strand_setStrand]
  split <;> rfl
@[simp] theorem State.unit_setPredictor (k j : Fin 4) (x : Predictor) :
    (s.setPredictor k x).unit j = s.unit j := by
  simp only [State.unit, State.setPredictor, State.strand_setStrand]
  split
  · next h => rw [← h]
  · rfl
@[simp] theorem State.unit_setBillet (k j : Fin 4) (x : Billet) :
    (s.setBillet k x).unit j = s.unit j := by
  simp only [State.unit, State.setBillet, State.strand_setStrand]
  split
  · next h => rw [← h]
  · rfl
@[simp] theorem State.predictor_setUnit (k j : Fin 4) (x : StrandUnit) :
    (s.setUnit k x).predictor j = s.predictor j := by
  simp only [State.predictor, State.setUnit, State.strand_setStrand]
  split
  · next h => rw [← h]
  · rfl
@[simp] theorem State.predictor_setPredictor (k j : Fin 4) (x : Predictor) :
    (s.setPredictor k x).predictor j = if k = j then x else s.predictor j := by
  simp only [State.predictor, State.setPredictor, State.strand_setStrand]
  split <;> rfl
@[simp] theorem State.predictor_setBillet (k j : Fin 4) (x : Billet) :
    (s.setBillet k x).predictor j = s.predictor j := by
  simp only [State.predictor, State.setBillet, State.strand_setStrand]
  split
  · next h => rw [← h]
  · rfl
@[simp] theorem State.billet_setUnit (k j : Fin 4) (x : StrandUnit) :
    (s.setUnit k x).billet j = s.billet j := by
  simp only [State.billet, State.setUnit, State.strand_setStrand]
  split
  · next h => rw [← h]
  · rfl
@[simp] theorem State.billet_setPredictor (k j : Fin 4) (x : Predictor) :
    (s.setPredictor k x).billet j = s.billet j := by
  simp only [State.billet, State.setPredictor, State.strand_setStrand]
  split
  · next h => rw [← h]
  · rfl
@[simp] theorem State.billet_setBillet (k j : Fin 4) (x : Billet) :
    (s.setBillet k x).billet j = if k = j then x else s.billet j := by
  simp only [State.billet, State.setBillet, State.strand_setStrand]
  split <;> rfl

end Sys2Proof.Machine
end

