-- ==== Sys2Proof/Laws/Settle.lean ====
section
/-!
SUPPORT. What the end of an event does to a state, said once: the Status Writer's own changes (State.Settles) and nothing
else. Claims about a command cite State.event_settles and rewrite what the command's own operation leaves.
-/
namespace Sys2Proof.Machine

theorem State.Settles.refl (s : State) : s.Settles s := ⟨rfl, ⟨[], (List.append_nil _).symm, rfl⟩, rfl⟩

/-- A block's bytes do not depend on what the Status Writer changes. -/
theorem State.blockWrite_writer (s : State) (m : Vector BlockMarks 22) (c : BitVec 14) (q : List OwnTxn)
    (w : List (Waiter × Nat)) :
    State.blockWrite
      { s with marks := m, causes := { s.causes with carried := c }, own := { s.own with queue := q, waiters := w } } =
      s.blockWrite := rfl

theorem State.Settles.trans {a b c : State} (h : a.Settles b) (g : b.Settles c) : a.Settles c := by
  obtain ⟨l, hq, hc⟩ := h.issued
  obtain ⟨m, gq, gc⟩ := g.issued
  have hs := h.same
  have gs := g.same
  have hb : b.blockWrite = a.blockWrite := by rw [hs, State.blockWrite_writer]
  have hp : b.causes.pending = a.causes.pending := by rw [hs]
  refine ⟨?_, ⟨l ++ m, by rw [gq, hq, hb, List.map_append, List.append_assoc], ?_⟩, g.waiters.trans h.waiters⟩
  · rw [gs]
    generalize c.marks = cm at *
    generalize c.causes.carried = cc at *
    generalize c.own.queue = cq at *
    generalize c.own.waiters = cw at *
    rw [hs]
  · rw [gc, hc, hp, List.any_append]
    cases l.any fun x => x.1 == 0 <;> cases m.any fun x => x.1 == 0 <;> rfl

/-- A state that differs from another in its marks only settles it. -/
theorem State.Settles.ofMarks (s : State) (m : Vector BlockMarks 22) : s.Settles { s with marks := m } :=
  ⟨rfl, ⟨[], (List.append_nil _).symm, rfl⟩, rfl⟩

theorem State.Settles.markDirty (s : State) (b : Fin 22) : s.Settles (s.markDirty b) := .ofMarks s _

theorem State.Settles.mapMarks (s : State) (f : BlockMarks → BlockMarks) : s.Settles (s.mapMarks f) := .ofMarks s _

theorem State.Settles.markChanges (new old : State) : new.Settles (new.markChanges old) := .ofMarks new _

/-! ### Causes -/

/-- A cause's mask has its own bit and no other. -/
theorem Cause.mask_bit (c : Cause) (i : Nat) (h : i < 14) : c.mask.getLsbD i = decide (i = c.bit) := by
  have all : ∀ j : Fin 14, c.mask.getLsbD j.val = decide (j.val = c.bit) := by cases c <;> decide
  exact all ⟨i, h⟩

/-- A pending cause raised again changes nothing (R182). -/
theorem Cause.or_mask_of_set (c : Cause) (p : BitVec 14) (h : p.getLsbD c.bit = true) : p ||| c.mask = p := by
  apply BitVec.eq_of_getLsbD_eq
  intro i hi
  rw [BitVec.getLsbD_or, Cause.mask_bit c i hi]
  by_cases e : i = c.bit
  · rw [e, h]; rfl
  · simp [e]

theorem State.Settles.raise (s : State) (c : Cause) : (s.withCause c).Settles (s.raise c) := by
  unfold State.raise
  split
  · next h =>
    have : s.withCause c = s := by
      unfold State.withCause
      rw [Cause.or_mask_of_set c _ h]
    rw [this]
    exact .refl s
  · exact .markDirty _ 0

theorem State.Settles.raiseIf (s : State) (b : Bool) (c : Cause) :
    (if b then s.withCause c else s).Settles (s.raiseIf b c) := by
  cases b
  · exact .refl s
  · exact .raise s c

/-- A change of a predictor's record is that change, but for the mark of its block. -/
theorem State.Settles.changePredictor (s : State) (k : Fin 4) (p : Predictor) :
    (s.setPredictor k p).Settles (s.changePredictor k p) := by
  unfold State.changePredictor
  split
  · exact .refl _
  · exact .markDirty _ _

/-! ### The Status Writer -/

theorem State.Settles.beginWait (s : State) : s.Settles (s.beginWait .statusWriter) := by
  unfold State.beginWait
  split
  · exact .refl s
  · exact ⟨rfl, ⟨[], (List.append_nil _).symm, rfl⟩, by simp [List.filter_append]⟩

theorem State.Settles.endWait (s : State) : s.Settles (s.endWait .statusWriter) :=
  ⟨rfl, ⟨[], (List.append_nil _).symm, rfl⟩, by simp [State.endWait, List.filter_filter]⟩

/-- With a place in the queue the issue of a block puts its write there, which carries the causes pending where it is block 0. -/
theorem State.Settles.issueBlock (s : State) (b : Fin 22) (h : s.own.queue.length < Config.ownPlaces) :
    s.Settles (s.issueBlock b) := by
  have e (t : OwnTxn) : (s.setMark b (s.mark b).atIssue).pushOwn t =
      { s.setMark b (s.mark b).atIssue with own := { s.own with queue := s.own.queue ++ [t] } } := if_pos h
  unfold State.issueBlock
  dsimp only
  rw [e]
  split
  · next z => exact ⟨rfl, ⟨[(b, (s.mark b).atIssue.sequence)], rfl, by simp [z, State.setMark]⟩, rfl⟩
  · next z => exact ⟨rfl, ⟨[(b, (s.mark b).atIssue.sequence)], rfl, by simp [z, State.setMark]⟩, rfl⟩

/-- A place free is a place in the queue. -/
theorem State.placeFree_lt {s : State} (h : s.placeFree = true) : s.own.queue.length < Config.ownPlaces :=
  Nat.lt_of_le_of_lt (Nat.le_add_right ..) (of_decide_eq_true h)

theorem State.Settles.issueBlocks (l : List (Fin 22)) (s : State) : s.Settles (State.issueBlocks l s) := by
  induction l generalizing s with
  | nil => exact .endWait s
  | cons b rest ih =>
    unfold State.issueBlocks
    split
    · split
      · next h => exact (State.Settles.issueBlock s b (State.placeFree_lt h)).trans (ih _)
      · exact .beginWait s
    · exact ih s

theorem State.Settles.settled (new old : State) : new.Settles (new.settled old) :=
  (State.Settles.markChanges new old).trans (.issueBlocks _ _)

/-- An event leaves what its operation leaves, but for the Status Writer's changes. -/
theorem State.event_settles (s : State) (f : State → State) (h : s.resetLow = false) :
    (f s.opened).Settles (s.event f) := by
  unfold State.event
  rw [h]
  exact .settled _ _

/-- While RESET_N is low an event changes nothing (R19). -/
theorem State.event_low (s : State) (f : State → State) (h : s.resetLow = true) : s.event f = s := by
  unfold State.event
  rw [h]
  rfl

/-- A command whose meaning is one event answers what the event's operation leaves. -/
theorem Answers.of_event {c : Instr} {s b : State} {f : State → State} (he : exec c s = .next (s.event f))
    (hl : s.resetLow = false) (hb : f s.opened = b) : Answers c s b :=
  ⟨_, he, hb ▸ State.event_settles s f hl⟩

/-- As above, where the operation leaves the state but for a mark that a cause raised at its end sets. -/
theorem Answers.of_event_settles {c : Instr} {s b : State} {f : State → State} (he : exec c s = .next (s.event f))
    (hl : s.resetLow = false) (hb : b.Settles (f s.opened)) : Answers c s b :=
  ⟨_, he, hb.trans (State.event_settles s f hl)⟩

end Sys2Proof.Machine
end

