-- ==== Sys2Proof/Laws/Commands.lean ====
section
/-!
SUPPORT. What the frame around a command does, said once: the opened state, the taking of presented transactions when none
waits, a Control Page write that is taken or refused, the arguments that name strands and channels; and what a transaction
that the Evidence Engine issues does.
-/
namespace Sys2Proof.Machine

variable (s : State)

/-! ### The opened state -/

@[simp] theorem State.opened_resetLow : s.opened.resetLow = s.resetLow := rfl
@[simp] theorem State.opened_ownId : s.opened.ownId = s.ownId := rfl
@[simp] theorem State.opened_timeBase : s.opened.timeBase = s.timeBase := rfl
@[simp] theorem State.opened_own : s.opened.own = s.own := rfl
@[simp] theorem State.opened_shadow : s.opened.shadow = s.shadow := rfl
@[simp] theorem State.opened_part : s.opened.part = s.part := rfl
@[simp] theorem State.opened_zeroUnanswered : s.opened.zeroUnanswered = s.zeroUnanswered := rfl
@[simp] theorem State.opened_statusTimer : s.opened.statusTimer = s.statusTimer := rfl
@[simp] theorem State.opened_marks : s.opened.marks = s.marks := rfl
@[simp] theorem State.opened_causes : s.opened.causes = s.causes := rfl
@[simp] theorem State.opened_lineQueue : s.opened.lineQueue = s.lineQueue := rfl
@[simp] theorem State.opened_faces : s.opened.faces = s.faces := rfl
@[simp] theorem State.opened_strands : s.opened.strands = s.strands := rfl
@[simp] theorem State.opened_tracks : s.opened.tracks = s.tracks := rfl
@[simp] theorem State.opened_ring : s.opened.ring = s.ring := rfl
@[simp] theorem State.opened_evidence : s.opened.evidence = s.evidence := rfl
@[simp] theorem State.opened_table : s.opened.path.table = s.path.table := rfl
@[simp] theorem State.opened_held : s.opened.path.held = s.path.held := rfl
@[simp] theorem State.opened_forwarding : s.opened.path.forwarding = s.path.forwarding := rfl
@[simp] theorem State.opened_issued : s.opened.path.issued = s.path.issued := rfl
@[simp] theorem State.opened_controlInFlight : s.opened.path.controlInFlight = s.path.controlInFlight := rfl
@[simp] theorem State.opened_presentedReads : s.opened.path.presentedReads = s.path.presentedReads := rfl
@[simp] theorem State.opened_presentedWrites : s.opened.path.presentedWrites = s.path.presentedWrites := rfl
@[simp] theorem State.opened_nextSeq : s.opened.path.nextSeq = s.path.nextSeq := rfl
@[simp] theorem State.opened_unit (k : Fin 4) : s.opened.unit k = s.unit k := rfl
@[simp] theorem State.opened_predictor (k : Fin 4) : s.opened.predictor k = s.predictor k := rfl
@[simp] theorem State.opened_billet (k : Fin 4) : s.opened.billet k = s.billet k := rfl
@[simp] theorem State.opened_strand (k : Fin 4) : s.opened.strand k = s.strand k := rfl
@[simp] theorem State.opened_face (k : Fin 16) : s.opened.face k = s.face k := rfl
@[simp] theorem State.opened_track (e : Fin 64) : s.opened.track e = s.track e := rfl
@[simp] theorem State.opened_slot (i : Fin 4) : s.opened.slot i = s.slot i := rfl
@[simp] theorem State.opened_tile (i : Fin 64) : s.opened.tile i = s.tile i := rfl
@[simp] theorem State.opened_mark (b : Fin 22) : s.opened.mark b = s.mark b := rfl
@[simp] theorem State.opened_settings (k : Fin 4) : s.opened.settings k = s.settings k := rfl
@[simp] theorem State.opened_globals : s.opened.globals = s.globals := rfl
@[simp] theorem State.opened_window (w : Fin 16) : s.opened.window w = s.window w := rfl
@[simp] theorem State.opened_windowEnabled (w : Fin 16) : s.opened.windowEnabled w = s.windowEnabled w := rfl
@[simp] theorem State.opened_feeding (k : Fin 16) : s.opened.feeding k = s.feeding k := rfl
@[simp] theorem State.opened_lookup (a : Nat) : s.opened.lookup a = s.lookup a := rfl
@[simp] theorem State.opened_filter (i : Fin 8) : s.opened.filter i = s.filter i := rfl
@[simp] theorem State.opened_getIndex : s.opened.getIndex = s.getIndex := rfl
@[simp] theorem State.opened_causeMask : s.opened.causeMask = s.causeMask := rfl
@[simp] theorem State.opened_ctlBase : s.opened.ctlBase = s.ctlBase := rfl
@[simp] theorem State.opened_record (q : Nat) : s.opened.record q = s.record q := rfl
@[simp] theorem State.opened_fronts : s.opened.fronts = s.fronts := rfl

/-! ### Taking presented transactions -/

/-- With nothing presented nothing is taken (R2). -/
theorem State.takePresented_none (hr : s.path.presentedReads = []) (hw : s.path.presentedWrites = []) :
    s.takePresented = s := by
  unfold State.takePresented
  rw [hr, hw]
  rfl

/-- A read presented alone that can be taken is taken, and that is all (R2). -/
theorem State.presentRead_ready (r : PresentedRead) (hr : s.path.presentedReads = []) (hw : s.path.presentedWrites = [])
    (ht : s.path.table.length < Config.tablePlaces) :
    s.presentRead r = (s.arriveRead r).returnResponses := by
  unfold State.presentRead State.takePresented
  rw [hr, hw]
  have h1 : ({ s with path := { s.path with presentedReads := [] ++ [r] } } : State).readReady = true := by
    simp [State.readReady, State.tableFree, ht]
  have h2 : ({ s with path := { s.path with presentedReads := [] ++ [r] } } : State).writeReady = false := by
    simp [State.writeReady, hw]
  have h3 : ({ s with path := { s.path with presentedReads := [] } } : State) = s := by
    conv => rhs; rw [show s = { s with path := { s.path with presentedReads := s.path.presentedReads } } from rfl]
    rw [hr]
  simp only [List.nil_append] at h1 h2 ⊢
  simp only [List.length_cons, List.length_nil, Nat.add_zero, Nat.zero_add, State.takeReady, h1, h2, Bool.and_false,
    Bool.false_eq_true, if_false, if_true]
  simp only [State.takeRead, h3]

/-- A write presented alone that can be taken is taken, and that is all (R2). -/
theorem State.presentWrite_ready (x : PresentedWrite) (hr : s.path.presentedReads = [])
    (hw : s.path.presentedWrites = []) (ht : s.path.table.length < Config.tablePlaces)
    (hh : s.path.held.length < Config.heldPlaces)
    (hc : s.inControlPage x.addr = true → s.path.controlInFlight = none) :
    s.presentWrite x = (s.arriveWrite x).returnResponses := by
  unfold State.presentWrite State.takePresented
  rw [hr, hw]
  have h1 : ({ s with path := { s.path with presentedWrites := [] ++ [x] } } : State).readReady = false := by
    simp [State.readReady, hr]
  have h2 : ({ s with path := { s.path with presentedWrites := [] ++ [x] } } : State).writeReady = true := by
    have : ({ s with path := { s.path with presentedWrites := [x] } } : State).inControlPage x.addr =
      s.inControlPage x.addr := rfl
    simp only [State.writeReady, State.tableFree, List.nil_append, ht, hh, decide_true, Bool.true_and, this]
    cases h : s.inControlPage x.addr
    · rfl
    · rw [hc h]; rfl
  have h3 : ({ s with path := { s.path with presentedWrites := [] } } : State) = s := by
    conv => rhs; rw [show s = { s with path := { s.path with presentedWrites := s.path.presentedWrites } } from rfl]
    rw [hw]
  simp only [List.nil_append] at h1 h2 ⊢
  simp only [List.length_cons, List.length_nil, Nat.zero_add, State.takeReady, h1, h2, Bool.false_and,
    Bool.false_eq_true, if_false, if_true]
  simp only [State.takeWrite, h3]

/-- What is protected does not depend on the path (R158). -/
@[simp] theorem State.protectedRange_path (p : Path) (w : Fin 16) (offset count : Nat) :
    ({ s with path := p } : State).protectedRange w offset count = s.protectedRange w offset count := rfl

/-! ### Refusals and Control Page writes -/

/-- A refusal leaves the last-refusal record and cause REFUSED (R6), but for marks. -/
theorem State.Settles.refuse (r : Reason) (a : Addr) :
    ({ s with path := { s.path with refusalReason := r, refusalAddr := a } }.withCause .refused).Settles (s.refuse r a) :=
  (State.Settles.raise _ _).trans (.markDirty _ _)

theorem State.control_taken (off : Nat) (f : State → State) (h : s.path.controlInFlight = none) :
    s.control off none f = f s := by
  unfold State.control; rw [h]; rfl

theorem State.control_refused (off : Nat) (r : Reason) (f : State → State) (h : s.path.controlInFlight = none) :
    s.control off (some r) f = s.refuse r (s.pageAddress off) := by
  unfold State.control; rw [h]; rfl

/-- A Control Page write command that is refused answers the refused state (R6). -/
theorem Answers.of_control_refused {c : Instr} {off : Nat} {r : Reason} {f : State → State} {e : State → Option Reason}
    (he : exec c s = .next (s.event fun t => t.control off (e t) f)) (hl : s.resetLow = false)
    (hc : s.path.controlInFlight = none) (hr : e s.opened = some r) : Answers c s (State.controlRefused s r off) := by
  refine .of_event_settles he hl ?_
  simp only [hr]
  rw [State.control_refused s.opened _ _ _ hc]
  exact .refuse _ _ _

/-- A Control Page write command that is taken answers its effect. -/
theorem Answers.of_control_taken {c : Instr} {b : State} {off : Nat} {f : State → State} {e : State → Option Reason}
    (he : exec c s = .next (s.event fun t => t.control off (e t) f)) (hl : s.resetLow = false)
    (hc : s.path.controlInFlight = none) (hr : e s.opened = none) (hb : b.Settles (f s.opened)) : Answers c s b := by
  refine .of_event_settles he hl ?_
  simp only [hr]
  rw [State.control_taken s.opened _ _ hc]
  exact hb

/-- Where a write leaves every Window Table entry as enabled as it was, settings that R171 takes are taken by the cross-checks of
R25 too. -/
theorem State.crossChecks_of_globalChecks (m m' : List Host.Cell) (h : s.globalChecks m' = true)
    (e : ∀ w, Machine.windowEnabled m w = Machine.windowEnabled m' w) : crossChecks m m' = true := by
  unfold State.globalChecks at h
  simp only [Bool.and_eq_true] at h
  simp only [crossChecks, enabledEither, e, Bool.or_self]
  exact h.1.1.1.1.1.2

theorem strandArg_ofNat (k : Fin 4) : strandArg (BitVec.ofNat 8 k.val) = some k := by
  revert k; decide

theorem channelArg_ofNat (k : Fin 16) : channelArg (BitVec.ofNat 8 k.val) = some k := by
  revert k; decide

theorem strandArg_none (b : Byte) (h : 4 ≤ b.toNat) : strandArg b = none := by
  unfold strandArg; rw [dif_neg (by omega)]

theorem channelArg_none (b : Byte) (h : 16 ≤ b.toNat) : channelArg b = none := by
  unfold channelArg; rw [dif_neg (by omega)]

/-- A CASTING or HELD unit moves, and no other. -/
theorem StrandUnit.moving_iff (u : StrandUnit) : u.moving = true ↔ u.state = .casting ∨ u.state = .held := by
  unfold StrandUnit.moving; cases u.state <;> decide

theorem StrandUnit.moving_false_iff (u : StrandUnit) : u.moving = false ↔ u.state = .idle ∨ u.state = .stopping := by
  unfold StrandUnit.moving; cases u.state <;> decide

/-! ### Replacing an entry twice -/

@[simp] theorem vset_vset {α : Type} {n : Nat} (v : Vector α n) (i : Fin n) (a b : α) :
    vset (vset v i a) i b = vset v i b := by
  simp [vset]

@[simp] theorem vset_vget {α : Type} {n : Nat} (v : Vector α n) (i : Fin n) : vset v i (vget v i) = v := by
  simp [vset, vget]

/-! ### The Evidence Engine's transactions -/

@[simp] theorem State.readIssued_own (g : OwnTag) : (s.readIssued g).own = s.own := by cases g <;> rfl

/-- Only a ring read changes what its slot has outstanding (R152). -/
theorem State.readIssued_write {g : OwnTag} (h : g.isRead = false) : s.readIssued g = s := by
  cases g <;> first | rfl | cases h

@[simp] theorem State.readIssued_read (i : Fin 4) (n : Nat) :
    s.readIssued (.ringRead i n) = s.setSlot i { s.slot i with readOutstanding := true } := rfl

/-- With a place in the queue an issued transaction is put at its tail, and that is all but for its slot's mark. -/
theorem State.engineIssue_joins (t : OwnTxn) (h : s.own.queue.length < Config.ownPlaces) :
    s.engineIssue t = { s.readIssued t.tag with own := { s.own with queue := s.own.queue ++ [t] } } := by
  unfold State.engineIssue State.pushOwn
  rw [State.readIssued_own, if_pos h]

/-- The engine's transaction that finds a place owed to nobody joins at once (R16, R161). -/
theorem State.engineMake_joins (t : OwnTxn) (he : s.own.engine = []) (hw : s.waits .evidence = false)
    (hp : s.placeFree = true) :
    s.engineMake t = { s.readIssued t.tag with own := { s.own with queue := s.own.queue ++ [t] } } := by
  rw [← State.engineIssue_joins s t (State.placeFree_lt hp)]
  unfold State.engineMake
  rw [he, hw, hp]
  rfl

/-- One that finds none waits behind the engine's others, and no slot changes (R16, R152). -/
theorem State.engineMake_waits (t : OwnTxn) (h : s.placeFree = false) :
    s.engineMake t = { s with own := { s.own with engine := s.own.engine ++ [t] } }.beginWait .evidence := by
  unfold State.engineMake
  rw [h, Bool.and_false]
  rfl

/-! ### The fields of the shadow -/

theorem leNat_lt (l : List Byte) : leNat l < 256 ^ l.length := by
  induction l with
  | nil => decide
  | cons b rest ih =>
    have := b.isLt
    simp only [leNat, List.length_cons, Nat.pow_succ]
    omega

theorem Memory.readBytes_length (m : List Host.Cell) (a n : Nat) : (Memory.readBytes m a n).length = n := by
  induction n generalizing a with
  | zero => rfl
  | succ n ih => simp [Memory.readBytes, ih]

/-- A field of n bytes lies below 256 to the power n. -/
theorem Memory.field_lt (m : List Host.Cell) (a n : Nat) : Memory.field m a n < 256 ^ n := by
  have := leNat_lt (Memory.readBytes m a n)
  rwa [Memory.readBytes_length] at this

end Sys2Proof.Machine
end

