-- ==== Sys2Proof/Laws/Keeps.lean ====
section
/-!
SUPPORT. What every operation of the machine keeps, said once for each operation: the invariant State.Inv, the straps, the
level of RESET_N and the queue of commands. A claim about every step cites these and unfolds no operation.
-/
namespace Sys2Proof.Machine

/- One proof after another: at once they ask for more threads than the memory allows. -/
set_option Elab.async false

/-- What an operation other than a reset leaves alone, whatever else it does. -/
def State.fixed (s : State) : List Instr × Bool × BitVec 20 × Id := (s.pending, s.resetLow, s.ctlStrap, s.ownId)

/-- What the S-port gives the path: the number of its next transaction, and the transactions presented and not yet taken. -/
def Path.arrivals (p : Path) : Nat × List PresentedRead × List PresentedWrite :=
  (p.nextSeq, p.presentedReads, p.presentedWrites)

/-- What State.Inv reads, with the transactions presented. -/
def State.bounds (s : State) :
    PartState × List Host.Cell × Nat × List Nat × (Nat × List PresentedRead × List PresentedWrite) × Nat × Nat × Nat × Nat ×
      (Fin 4 → StrandUnit) × (Fin 16 → Head) × (Fin 4 → List Nat) × (Fin 4 → SlotState) :=
  (s.part, s.shadow, s.path.table.length, s.path.held.map (·.seq), s.path.arrivals, s.own.queue.length, s.own.waitCount,
    resultsQueued s.lineQueue, s.ring.put, s.unit, fun k => (s.face k).head, fun k => (s.billet k).numbers, fun i => (s.slot i).state)

/-- A change from s to t that keeps the invariant and leaves the straps, RESET_N and the commands alone. -/
structure State.Holds (s t : State) : Prop where
  inv : s.Inv → t.Inv
  fixed : t.fixed = s.fixed

theorem State.Holds.refl (s : State) : s.Holds s := ⟨id, rfl⟩

/-- Two changes, the last one first, so that it is read off the goal. -/
theorem State.Holds.after {a b c : State} (g : b.Holds c) (h : a.Holds b) : a.Holds c :=
  ⟨fun i => g.inv (h.inv i), g.fixed.trans h.fixed⟩

/-- The same for a change that issues no block: every operation but the Status Writer's. -/
structure State.Carries (s t : State) : Prop extends s.Holds t where
  sequence : ∀ b, (t.mark b).sequence = (s.mark b).sequence

theorem State.Carries.refl (s : State) : s.Carries s := ⟨.refl s, fun _ => rfl⟩

theorem State.Carries.after {a b c : State} (g : b.Carries c) (h : a.Carries b) : a.Carries c :=
  ⟨.after g.toHolds h.toHolds, fun i => (g.sequence i).trans (h.sequence i)⟩

theorem State.Carries.iff_ {s a b : State} {c : Prop} [Decidable c] (h : c → s.Carries a) (g : ¬c → s.Carries b) :
    s.Carries (if c then a else b) := by
  split
  · next x => exact h x
  · next x => exact g x

/-- The same for a change that moreover takes no transaction: no place of the Outstanding Table, no further write held, and what
is presented as it was. Every operation but the arrivals. -/
structure State.Keeps (s t : State) : Prop extends s.Carries t where
  table : t.path.table.length ≤ s.path.table.length
  held : (t.path.held.map (·.seq)).Sublist (s.path.held.map (·.seq))
  arrivals : t.path.arrivals = s.path.arrivals

/-- No more writes are held. -/
theorem State.Keeps.heldLength {s t : State} (h : s.Keeps t) : t.path.held.length ≤ s.path.held.length := by
  simpa using h.held.length_le

/-- The number of the next transaction stays. -/
theorem State.Keeps.next {s t : State} (h : s.Keeps t) : t.path.nextSeq = s.path.nextSeq := congrArg (·.1) h.arrivals

/-- What is presented stays. -/
theorem State.Keeps.presented {s t : State} (h : s.Keeps t) :
    t.path.presentedReads = s.path.presentedReads ∧ t.path.presentedWrites = s.path.presentedWrites :=
  ⟨congrArg (·.2.1) h.arrivals, congrArg (·.2.2) h.arrivals⟩

theorem State.Keeps.refl (s : State) : s.Keeps s := ⟨.refl s, le_refl _, .refl _, rfl⟩

/-- The same with the last change first, so that it is read off the goal. -/
theorem State.Keeps.after {a b c : State} (g : b.Keeps c) (h : a.Keeps b) : a.Keeps c :=
  ⟨.after g.toCarries h.toCarries, g.table.trans h.table, g.held.trans h.held, g.arrivals.trans h.arrivals⟩

theorem State.Keeps.trans {a b c : State} (h : a.Keeps b) (g : b.Keeps c) : a.Keeps c := g.after h

theorem State.Inv.ofBounds {s t : State} (h : s.Inv) (e : t.bounds = s.bounds) : t.Inv := by
  simp only [State.bounds, Prod.mk.injEq] at e
  obtain ⟨e0, e1, e2, e3, en, e4, e5, e6, e7, e8, e9, e10, e11⟩ := e
  exact
    { shadow := e1 ▸ h.shadow
      pass := fun hp => by unfold State.globals; rw [e1]; exact h.pass (e0 ▸ hp)
      table := e2 ▸ h.table
      held := by have := congrArg List.length e3; simp only [List.length_map] at this; exact this ▸ h.held
      numbers := by rw [e3, show t.path.nextSeq = s.path.nextSeq from congrArg (·.1) en]; exact h.numbers
      own := e4 ▸ h.own
      wait := e5 ▸ h.wait
      results := e6 ▸ h.results
      put := e7 ▸ h.put
      units := fun k => by rw [show t.unit k = s.unit k from congrFun e8 k]; exact h.units k
      heads := fun k => by rw [show (t.face k).head = (s.face k).head from congrFun e9 k]; exact h.heads k
      pool := e10 ▸ h.pool
      copying := fun i j a b => h.copying i j ((congrFun e11 i).symm.trans a) ((congrFun e11 j).symm.trans b) }

/-- A change of nothing that the invariant reads. -/
theorem State.Holds.same {s t : State} (e : t.bounds = s.bounds) (f : t.fixed = s.fixed) : s.Holds t :=
  ⟨fun h => h.ofBounds e, f⟩

theorem State.Keeps.same {s t : State} (e : t.bounds = s.bounds) (f : t.fixed = s.fixed)
    (q : ∀ b, (t.mark b).sequence = (s.mark b).sequence := by exact fun _ => rfl) : s.Keeps t :=
  ⟨⟨.same e f, q⟩, le_of_eq (congrArg (·.2.2.1) e),
    (show t.path.held.map (·.seq) = s.path.held.map (·.seq) from congrArg (·.2.2.2.1) e) ▸ .refl _,
    congrArg (·.2.2.2.2.1) e⟩

theorem State.Carries.same {s t : State} (e : t.bounds = s.bounds) (f : t.fixed = s.fixed)
    (q : ∀ b, (t.mark b).sequence = (s.mark b).sequence := by exact fun _ => rfl) : s.Carries t :=
  (State.Keeps.same e f q).toCarries

/-- Transactions presented or no longer presented. -/
theorem State.Carries.present (s : State) (r : List PresentedRead) (w : List PresentedWrite) :
    s.Carries { s with path := { s.path with presentedReads := r, presentedWrites := w } } :=
  ⟨⟨fun i => { i with table := i.table }, rfl⟩, fun _ => rfl⟩

/-- A change that keeps the invariant when it starts from it. -/
theorem State.Keeps.of {s t : State} (h : s.Inv → t.Inv) (f : t.fixed = s.fixed)
    (a : t.path.table.length ≤ s.path.table.length := by exact le_refl _)
    (b : (t.path.held.map (·.seq)).Sublist (s.path.held.map (·.seq)) := by exact .refl _)
    (c : t.path.arrivals = s.path.arrivals := by exact rfl)
    (q : ∀ b, (t.mark b).sequence = (s.mark b).sequence := by exact fun _ => rfl) : s.Keeps t := ⟨⟨⟨h, f⟩, q⟩, a, b, c⟩

theorem State.Keeps.iff_ {s a b : State} {c : Prop} [Decidable c] (h : c → s.Keeps a) (g : ¬c → s.Keeps b) :
    s.Keeps (if c then a else b) := by
  split
  · next x => exact h x
  · next x => exact g x

/-! ### The Hold Pool -/

/-- No list with more than it had keeps the pool's rule. -/
theorem PoolOk.sub {l m : Fin 4 → List Nat} (h : PoolOk l) (g : ∀ k, (m k).Sublist (l k)) : PoolOk m where
  within k n hn := h.within k n ((g k).subset hn)
  once k := (h.once k).sublist (g k)
  apart i j hij n hn hm := h.apart i j hij n ((g i).subset hn) ((g j).subset hm)

/-- An entry of the pool that no list holds joins one of them. -/
theorem PoolOk.join {l m : Fin 4 → List Nat} (h : PoolOk l) (k : Fin 4) (n : Nat) (hn : n < Config.poolPlaces)
    (free : ∀ j, n ∉ l j) (here : (m k).Perm (n :: l k)) (other : ∀ j, j ≠ k → m j = l j) : PoolOk m where
  within j x hx := by
    by_cases e : j = k
    · subst e
      rcases List.mem_cons.mp (here.subset hx) with rfl | hx
      · exact hn
      · exact h.within _ _ hx
    · exact h.within j x (other j e ▸ hx)
  once j := by
    by_cases e : j = k
    · subst e
      exact here.nodup_iff.mpr (List.nodup_cons.mpr ⟨free j, h.once j⟩)
    · exact other j e ▸ h.once j
  apart i j hij x hi hj := by
    by_cases ei : i = k
    · subst ei
      rw [other j (Ne.symm hij)] at hj
      rcases List.mem_cons.mp (here.subset hi) with rfl | hi
      · exact free j hj
      · exact h.apart i j hij x hi hj
    · rw [other i ei] at hi
      by_cases ej : j = k
      · subst ej
        rcases List.mem_cons.mp (here.subset hj) with rfl | hj
        · exact free i hi
        · exact h.apart i j hij x hi hj
      · exact h.apart i j hij x hi (other j ej ▸ hj)

/-! ### Setting parts of the state -/

theorem State.Keeps.setAssembler (s : State) (k : Fin 16) (x : Assembler) : s.Keeps (s.setAssembler k x) := .same rfl rfl
theorem State.Keeps.setTrack (s : State) (k : Fin 64) (x : Option Track) : s.Keeps (s.setTrack k x) := .same rfl rfl
theorem State.Keeps.setTile (s : State) (k : Fin 64) (x : TileState) : s.Keeps (s.setTile k x) := .same rfl rfl
theorem State.Keeps.setMark (s : State) (k : Fin 22) (x : BlockMarks)
    (h : x.sequence = (s.mark k).sequence := by exact rfl) : s.Keeps (s.setMark k x) :=
  .same rfl rfl fun b => by
    rw [State.mark_setMark]
    split
    · next e => exact e ▸ h
    · rfl

/-- A face replaced by one whose head agrees with its counter whenever it did before. -/
theorem State.Keeps.setFace (s : State) (k : Fin 16) (x : Face) (h : (s.face k).head.Ok → x.head.Ok := by exact id) :
    s.Keeps (s.setFace k x) := by
  refine .of (fun i => { i with heads := fun j => ?_ }) rfl
  rw [State.face_setFace]
  split
  · exact h (i.heads k)
  · exact i.heads j

theorem State.Keeps.setHead (s : State) (k : Fin 16) (x : Head) (h : (s.face k).head.Ok → x.Ok) : s.Keeps (s.setHead k x) :=
  .setFace s k _ h
theorem State.Keeps.setCapture (s : State) (k : Fin 16) (x : CaptureCounts) : s.Keeps (s.setCapture k x) := .setFace s k _
theorem State.Keeps.setModel (s : State) (k : Fin 16) (x : Model) : s.Keeps (s.setModel k x) := .setFace s k _
theorem State.Keeps.setCounts (s : State) (k : Fin 16) (x : ModelCounts) : s.Keeps (s.setCounts k x) := .setFace s k _
theorem State.Keeps.setTrackCounts (s : State) (k : Fin 16) (x : TrackCounts) : s.Keeps (s.setTrackCounts k x) :=
  .setFace s k _

/-- A slot replaced by one that is COPYING only where the slot was, or where no slot is. -/
theorem State.Keeps.setSlot (s : State) (k : Fin 4) (x : Slot)
    (h : x.state = .copying → (s.slot k).state = .copying ∨ ∀ i, (s.slot i).state ≠ .copying := by exact .inl) :
    s.Keeps (s.setSlot k x) := by
  refine .of (fun v => { v with copying := fun i j a b => ?_ }) rfl
  simp only [State.slot_setSlot] at a b
  split at a <;> split at b
  · next p q => exact p.symm.trans q
  · next p _ => exact p ▸ (h a).elim (fun c => v.copying k j c b) fun c => absurd b (c j)
  · next _ p => exact p ▸ (h b).elim (fun c => v.copying i k a c) fun c => absurd a (c i)
  · exact v.copying i j a b

/-- The units after a strand is replaced. -/
theorem State.unit_setStrand (s : State) (k j : Fin 4) (x : Strand) :
    (s.setStrand k x).unit j = if k = j then x.unit else s.unit j := by
  simp only [State.unit, State.strand_setStrand]
  split <;> rfl

/-- The billet parts after a strand is replaced. -/
theorem State.billet_setStrand (s : State) (k j : Fin 4) (x : Strand) :
    (s.setStrand k x).billet j = if k = j then x.billet else s.billet j := by
  simp only [State.billet, State.strand_setStrand]
  split <;> rfl

/-- A strand replaced by one whose unit is in its ranges whenever every unit is, and whose list holds no more. -/
theorem State.Keeps.setStrand (s : State) (k : Fin 4) (x : Strand) (h : (s.unit k).Ok → x.unit.Ok)
    (g : x.billet.numbers.Sublist (s.billet k).numbers := by exact .refl _) : s.Keeps (s.setStrand k x) := by
  refine .of (fun i => { i with units := fun j => ?_, pool := i.pool.sub fun j => ?_ }) rfl
  · rw [State.unit_setStrand]
    split
    · exact h (i.units k)
    · exact i.units j
  · rw [State.billet_setStrand]
    split
    · next e => exact e ▸ g
    · exact .refl _

theorem State.Keeps.setUnit (s : State) (k : Fin 4) (u : StrandUnit) (h : (s.unit k).Ok → u.Ok) :
    s.Keeps (s.setUnit k u) := .setStrand s k _ h
theorem State.Keeps.setPredictor (s : State) (k : Fin 4) (x : Predictor) : s.Keeps (s.setPredictor k x) :=
  .setStrand s k _ id
theorem State.Keeps.setBillet (s : State) (k : Fin 4) (x : Billet)
    (g : x.numbers.Sublist (s.billet k).numbers := by exact .refl _) : s.Keeps (s.setBillet k x) := .setStrand s k _ id g

/-- Every strand replaced by one with its unit in its ranges and the same entries on its list. -/
theorem State.Keeps.mapStrands (s : State) (f : Fin 4 → Strand) (h : ∀ k, (s.unit k).Ok → (f k).unit.Ok)
    (g : ∀ k, (f k).billet.numbers = (s.billet k).numbers := by exact fun _ => rfl) :
    s.Keeps { s with strands := vtab f } := by
  have e (j : Fin 4) : State.strand { s with strands := vtab f } j = f j := by simp [State.strand]
  refine .of (fun i => { i with units := fun j => ?_, pool := i.pool.sub fun j => ?_ }) rfl
  · rw [State.unit, e]
    exact h j (i.units j)
  · rw [State.billet, e, g]

theorem State.Keeps.choose (s : State) (n : Nat) : s.Keeps (s.choose n).2 := by
  unfold State.choose
  split <;> exact .same rfl rfl

/-! ### Flags -/

theorem State.Keeps.markDirty (s : State) (b : Fin 22) : s.Keeps (s.markDirty b) := .setMark ..
theorem State.Keeps.markStrand (s : State) (k : Fin 4) : s.Keeps (s.markStrand k) := .markDirty ..
theorem State.Keeps.markFace (s : State) (k : Fin 16) : s.Keeps (s.markFace k) := .markDirty ..
theorem State.Keeps.raise (s : State) (c : Cause) : s.Keeps (s.raise c) := by
  unfold State.raise
  split
  · exact .refl s
  · exact .after (.markDirty _ _) (.same rfl rfl)
theorem State.Keeps.raiseIf (s : State) (b : Bool) (c : Cause) : s.Keeps (s.raiseIf b c) := by
  cases b
  · exact .refl s
  · exact .raise s c
theorem State.Keeps.memErrOf (s : State) (r : Resp) : s.Keeps (s.memErrOf r) := .raiseIf ..
theorem State.Keeps.acknowledge (s : State) (m : BitVec 16) : s.Keeps (s.acknowledge m) := by
  unfold State.acknowledge
  dsimp only
  split
  · exact .same rfl rfl
  · exact .after (.markDirty _ _) (.same rfl rfl)
theorem State.Keeps.postCauses (s : State) : s.Keeps s.postCauses := .same rfl rfl
theorem State.Keeps.mapMarks (s : State) (f : BlockMarks → BlockMarks) (h : ∀ m, (f m).sequence = m.sequence) :
    s.Keeps (s.mapMarks f) := .same rfl rfl fun b => by simp [State.mapMarks, State.mark, h]

theorem State.Keeps.markChanges (new old : State) : new.Keeps (new.markChanges old) :=
  .same rfl rfl fun b => by simp [State.markChanges, State.mark]

/-! ### The Own Traffic Queue -/

theorem State.Keeps.pushOwn (s : State) (t : OwnTxn) : s.Keeps (s.pushOwn t) := by
  unfold State.pushOwn
  split
  · next h =>
    refine .of (fun i => { i with own := ?_ }) rfl
    simpa using h
  · exact .refl s
theorem State.billet_pushOwn (s : State) (t : OwnTxn) (k : Fin 4) : (s.pushOwn t).billet k = s.billet k := by
  unfold State.pushOwn
  split <;> rfl
theorem State.Keeps.beginWait (s : State) (w : Waiter) : s.Keeps (s.beginWait w) := by
  unfold State.beginWait
  split <;> exact .same rfl rfl
theorem State.Keeps.endWait (s : State) (w : Waiter) : s.Keeps (s.endWait w) := .same rfl rfl

theorem State.Keeps.readIssued (s : State) (g : OwnTag) : s.Keeps (s.readIssued g) := by
  cases g with
  | ringRead i n => exact .setSlot _ _ _
  | _ => exact .refl s

theorem State.Keeps.engineIssue (s : State) (t : OwnTxn) : s.Keeps (s.engineIssue t) :=
  (State.Keeps.readIssued s t.tag).trans (.pushOwn _ t)

theorem State.Keeps.engineMake (s : State) (t : OwnTxn) : s.Keeps (s.engineMake t) := by
  unfold State.engineMake
  split
  · exact .engineIssue s t
  · exact .after (.beginWait _ _) (.same rfl rfl)

theorem State.Keeps.engineFlush (n : Nat) (s : State) : s.Keeps (State.engineFlush n s) := by
  induction n generalizing s with
  | zero => exact .refl s
  | succ n ih =>
    unfold State.engineFlush
    split
    · exact .refl s
    · split
      · exact .after (ih _) (.after (.engineIssue _ _) (.same rfl rfl))
      · exact .beginWait _ _

theorem State.Keeps.engineGiven (s : State) : s.Keeps s.engineGiven := by
  unfold State.engineGiven
  split
  · exact .refl s
  · exact .after (.engineFlush _ _) (.after (.engineIssue _ _) (.same rfl rfl))

theorem State.Keeps.withdrawReads (s : State) (i : Fin 4) : s.Keeps (s.withdrawReads i) := .same rfl rfl

theorem State.Keeps.answerWrite {s t : State} {kind : OwnTag → Bool} {x : OwnTxn}
    (h : s.answerWrite kind = some (x, t)) : s.Keeps t := by
  unfold State.answerWrite at h
  split at h
  · cases h
  · split at h
    · cases h; exact .same rfl rfl
    · cases h

theorem State.Keeps.answerRead {s t : State} {x : OwnTxn} (h : s.answerRead = some (x, t)) : s.Keeps t := by
  unfold State.answerRead at h
  split at h
  · cases h
  · cases h; exact .same rfl rfl

theorem State.Keeps.longestWaiter {s t : State} {w : Waiter} (h : s.longestWaiter = some (w, t)) : s.Keeps t := by
  unfold State.longestWaiter at h
  split at h
  · cases h
  · cases h; exact .choose _ _

/-! ### Held writes -/

theorem State.Keeps.modRec (s : State) (n : Nat) (f : Rec → Rec) : s.Keeps (s.modRec n f) := by
  refine .same ?_ rfl
  have e : (s.modRec n f).path.table.length = s.path.table.length := by simp [State.modRec]
  unfold State.bounds
  rw [e]
  rfl

/-- Fewer writes in arrival order keep what the invariant says of those held. -/
theorem State.Inv.ofHeld {s t : State} (i : s.Inv) (h : (t.path.held.map (·.seq)).Sublist (s.path.held.map (·.seq)))
    (n : t.path.nextSeq = s.path.nextSeq) :
    t.path.held.length ≤ Config.heldPlaces ∧
      ((t.path.held.map (·.seq)).Pairwise (· < ·) ∧ ∀ m ∈ t.path.held.map (·.seq), m < t.path.nextSeq) := by
  have l := h.length_le
  simp only [List.length_map] at l
  exact ⟨l.trans i.held, i.numbers.1.sublist h, fun m hm => n ▸ i.numbers.2 m (h.mem hm)⟩

/-- Fewer writes held. -/
theorem State.Keeps.fewerHeld (s : State) (l : List HeldWrite) (f : List (Nat × Nat))
    (h : (l.map (·.seq)).Sublist (s.path.held.map (·.seq))) :
    s.Keeps { s with path := { s.path with held := l, forwarding := f } } :=
  .of (fun i =>
    let g := State.Inv.ofHeld (t := { s with path := { s.path with held := l, forwarding := f } }) i h rfl
    { i with held := g.1, numbers := g.2 }) rfl (le_refl _) h

theorem State.Keeps.releaseWrite (s : State) (h : HeldWrite) : s.Keeps (s.releaseWrite h) :=
  (State.Keeps.fewerHeld s _ _ (List.filter_sublist.map _)).trans (.modRec _ _ _)

theorem State.Keeps.releaseFronts (n : Nat) (s : State) : s.Keeps (State.releaseFronts n s) := by
  induction n generalizing s with
  | zero => exact .refl s
  | succ n ih =>
    unfold State.releaseFronts
    split
    · exact .refl s
    · exact (State.Keeps.choose _ _).trans ((State.Keeps.releaseWrite _ _).trans (ih _))

theorem State.Keeps.startTimers (s : State) : s.Keeps s.startTimers := by
  have e : s.startTimers.path.held.map (·.seq) = s.path.held.map (·.seq) := by
    simp only [State.startTimers, List.map_map]
    refine List.map_congr_left fun h _ => ?_
    simp only [Function.comp]
    split <;> rfl
  exact .of (fun i =>
    let g := State.Inv.ofHeld (t := s.startTimers) i (e ▸ .refl _) rfl
    { i with held := g.1, numbers := g.2 }) rfl (le_refl _) (e ▸ .refl _)

theorem State.Keeps.releaseStep (s : State) : s.Keeps s.releaseStep :=
  (State.Keeps.releaseFronts _ _).trans (.startTimers _)

/-! ### The Evidence Engine -/

/-- The engine changed with every slot in the state it had. -/
theorem State.Keeps.setEvidence (s : State) (e : Evidence)
    (h : ∀ i, (vget e.slots i).state = (s.slot i).state := by exact fun _ => rfl) : s.Keeps { s with evidence := e } :=
  .of (fun v => { v with copying := fun i j a b => v.copying i j ((h i).symm.trans a) ((h j).symm.trans b) }) rfl

theorem State.Keeps.makeRead (s : State) (i : Fin 4) : s.Keeps (s.makeRead i) := .engineMake s _

theorem State.Keeps.makeHeader (s : State) (i : Fin 4) (o : Outcome) : s.Keeps (s.makeHeader i o) :=
  (State.Keeps.setSlot ..).trans (.engineMake _ _)

theorem State.Keeps.makeRowWrites (s : State) (p : Nat) (d : List Byte) : s.Keeps (s.makeRowWrites p d) := by
  unfold State.makeRowWrites
  dsimp only
  split
  · exact .engineMake _ _
  · exact (State.Keeps.engineMake _ _).trans (.engineMake _ _)

theorem Evidence.countOutcome_slots (e : Evidence) (o : Option Outcome) : (e.countOutcome o).slots = e.slots := by
  unfold Evidence.countOutcome
  split <;> rfl

theorem Evidence.countAbort_slots (e : Evidence) (o : Outcome) : (e.countAbort o).slots = e.slots := by
  unfold Evidence.countAbort
  split
  · exact e.countOutcome_slots _
  · rfl

theorem Evidence.countHeader_slots (e : Evidence) (o : Option Outcome) : (e.countHeader o).slots = e.slots := by
  unfold Evidence.countHeader
  split
  · rfl
  · exact e.countOutcome_slots _
  · exact e.countOutcome_slots _
  · split
    · rfl
    · exact e.countOutcome_slots _
  · split
    · rfl
    · exact e.countOutcome_slots _

theorem State.Keeps.abortSlot (s : State) (i : Fin 4) (o : Outcome) : s.Keeps (s.abortSlot i o) := by
  unfold State.abortSlot
  split
  · exact .after (.setEvidence _ _ fun _ => by rw [Evidence.countAbort_slots]; rfl)
      (.after (.makeHeader _ _ _) (.withdrawReads _ _))
  · exact .refl s

theorem State.Keeps.abortWhere (o : Outcome) (test : State → Fin 4 → Bool) (l : List (Fin 4)) (s : State) :
    s.Keeps (s.abortWhere o test l) := by
  induction l generalizing s with
  | nil => exact .refl s
  | cons i rest ih =>
    refine State.Keeps.trans ?_ (ih _)
    exact .iff_ (fun _ => .abortSlot _ _ _) fun _ => .refl s

theorem State.Keeps.abortOverrun (s : State) (w : Fin 16) (o c : Nat) : s.Keeps (s.abortOverrun w o c) := .abortWhere ..

theorem State.Keeps.abortWindow (s : State) (w : Fin 16) : s.Keeps (s.abortWindow w) :=
  (State.Keeps.abortWhere ..).trans (.releaseStep _)

theorem State.Keeps.chooseCopy (s : State) : s.Keeps s.chooseCopy := by
  unfold State.chooseCopy
  split
  · exact .refl s
  · next h =>
    have none (i : Fin 4) : (s.slot i).state ≠ .copying := fun e => h (by
      rw [List.any_eq_true]
      exact ⟨i, List.mem_finRange i, by rw [e]; rfl⟩)
    split
    · exact .refl s
    · dsimp only
      split
      · exact .after (.makeHeader _ _ _) (.setSlot _ _ _ fun _ => .inr none)
      · exact .after (.makeRead _ _) (.setSlot _ _ _ fun _ => .inr none)

theorem State.Keeps.markPreEmpted (s : State) (n : Option Nat) : s.Keeps (s.markPreEmpted n) := by
  unfold State.markPreEmpted
  split
  · exact .refl s
  · refine .mapStrands s _ (fun _ h => h) fun k => ?_
    unfold Strand.preEmpt Billet.numbers State.billet
    rw [List.map_map]
    refine List.map_congr_left fun e _ => ?_
    unfold PoolEntry.preEmpt
    dsimp only [Function.comp]
    split <;> rfl

theorem State.Keeps.assignSlot (s : State) (i : Fin 4) (t : Fin 64) (q : CopyRequest) : s.Keeps (s.assignSlot i t q) :=
  .after (.chooseCopy _) (.after (.setEvidence _ _) (.setSlot _ _ _ fun h => nomatch h))

theorem State.Keeps.preEmptSlot (s : State) (i : Fin 4) (q : CopyRequest) : s.Keeps (s.preEmptSlot i q) :=
  .after (.assignSlot _ _ _ _) (.after (.setEvidence _ _) (.after (.releaseStep _)
    (.after (.setSlot _ _ _ fun h => nomatch h) (.markPreEmpted _ _))))

theorem State.Keeps.requestCopy (s : State) (q : CopyRequest) : s.Keeps (s.requestCopy q).2 := by
  unfold State.requestCopy
  split
  · exact .same rfl rfl
  · dsimp only
    split
    · split
      · exact (State.Keeps.setEvidence ..).trans ((State.Keeps.setTile ..).trans ((State.Keeps.markDirty ..).trans (.assignSlot _ _ _ _)))
      · exact State.Keeps.after (State.Keeps.raise _ .tilesOut) (.same rfl rfl)
    · split
      · exact (State.Keeps.setEvidence ..).trans (.preEmptSlot _ _ _)
      · exact .same rfl rfl

theorem State.Keeps.forgetEntry (s : State) (n : Nat) : s.Keeps (s.forgetEntry n) :=
  .setEvidence _ _ fun i => by
    rw [vget_vtab]
    dsimp only
    split <;> rfl

theorem State.Keeps.countReadError (s : State) (i : Fin 4) (m : Bool) : s.Keeps (s.countReadError i m) := by
  unfold State.countReadError
  have h := (State.Keeps.setEvidence s { s.evidence with readErrors := bump s.evidence.readErrors }).trans
    (State.Keeps.raise _ .memErr)
  dsimp only
  split
  · exact h.trans (.setSlot _ _ _)
  · exact h

theorem State.Keeps.rowEnded (s : State) (i : Fin 4) : s.Keeps (s.rowEnded i) := by
  unfold State.rowEnded
  dsimp only
  split
  · exact (State.Keeps.setSlot ..).trans ((State.Keeps.releaseStep _).trans (.makeRead _ _))
  · exact (State.Keeps.setSlot ..).trans ((State.Keeps.releaseStep _).trans (.makeHeader _ _ _))

theorem State.Keeps.readReturned (s : State) (i : Fin 4) (d : List Byte) : s.Keeps (s.readReturned i d) := by
  unfold State.readReturned
  dsimp only
  split
  · exact (State.Keeps.makeRowWrites ..).trans ((State.Keeps.setSlot ..).trans (.makeRead _ _))
  · exact (State.Keeps.makeRowWrites ..).trans (.rowEnded _ _)

theorem State.Keeps.ringReadAnswered (s : State) (i : Fin 4) (n : Nat) (r : Resp) (d : List Byte) :
    s.Keeps (s.ringReadAnswered i n r d) := by
  unfold State.ringReadAnswered
  dsimp only
  have h1 (c : Bool) : s.Keeps (if c then s.setSlot i { s.slot i with readOutstanding := false } else s) :=
    .iff_ (fun _ => .setSlot _ _ _) fun _ => .refl s
  split
  · split
    · exact (h1 _).trans ((State.Keeps.countReadError ..).trans (.readReturned _ _ _))
    · exact (h1 _).trans (.readReturned _ _ _)
  · split
    · exact (h1 _).trans (.countReadError _ _ _)
    · exact h1 _

theorem State.Keeps.headerAnswered (s : State) (i : Fin 4) : s.Keeps (s.headerAnswered i) := by
  unfold State.headerAnswered
  dsimp only
  refine .iff_ (fun _ => .after (.chooseCopy _) ?_) fun _ => ?_
  all_goals
    exact .after (.markDirty _ _) (.after (.raise _ _)
      (.after (.setEvidence _ _ fun _ => by rw [Evidence.countHeader_slots]; rfl)
        (.after (.setSlot _ _ _ fun h => nomatch h) (.setTile _ _ _))))

theorem State.Keeps.releaseTiles (s : State) (m : BitVec 64) : s.Keeps (s.releaseTiles m) := .same rfl rfl

end Sys2Proof.Machine
end

