-- ==== Sys2Proof/Laws/KeepsInspection.lean ====
section
/-!
SUPPORT. What the operations of the strands, the billet closes, the Track Table and the capture keep (see Laws/Keeps.lean).
-/
namespace Sys2Proof.Machine

/- One proof after another: at once they ask for more threads than the memory allows. -/
set_option Elab.async false

/-! ### Strand Travel Units -/

/-- A unit with the same travel and a gap list no longer stays in its ranges. -/
theorem StrandUnit.Ok.same {u v : StrandUnit} (h : u.Ok) (t : v.travel = u.travel) (f : v.fraction = u.fraction)
    (g : v.gaps.length ≤ u.gaps.length) : v.Ok :=
  ⟨t ▸ h.travel, f ▸ h.fraction, g.trans h.gaps⟩

theorem StrandUnit.Ok.reset : StrandUnit.reset.Ok := ⟨Nat.zero_le _, Nat.zero_le _, Nat.zero_le _⟩

theorem joinLast_length (f : Fin 4) (l : List GapEntry) : (joinLast f l).length = l.length := by
  induction l with
  | nil => rfl
  | cons g rest ih =>
    cases rest with
    | nil => rfl
    | cons h tail => simp only [joinLast, List.length_cons] at *; omega

theorem openGap_length (f : Fin 4) (t : Nat) (l : List GapEntry) (h : l.length ≤ Config.gapPlaces) :
    (openGap f t l).1.length ≤ Config.gapPlaces := by
  unfold openGap
  split
  · simpa [joinLast_length] using h
  · split
    · next g => simpa using g
    · simpa [joinLast_length] using h

theorem StrandUnit.Ok.uncover {u : StrandUnit} (f : Fin 4) (h : u.Ok) : (u.uncover f).Ok := by
  unfold StrandUnit.uncover
  dsimp only
  split
  · exact h.same rfl rfl (le_refl _)
  · split
    · exact h.same rfl rfl (le_refl _)
    · exact ⟨h.travel, h.fraction, openGap_length _ _ _ h.gaps⟩

theorem StrandUnit.Ok.cover {u : StrandUnit} (f : Fin 4) (h : u.Ok) : (u.cover f).Ok := by
  unfold StrandUnit.cover
  dsimp only
  split
  · exact h.same rfl rfl (by simp [closeGaps])
  · exact h.same rfl rfl (le_refl _)

theorem State.Keeps.changeUnit (s : State) (k : Fin 4) (u : StrandUnit) (h : (s.unit k).Ok → u.Ok) :
    s.Keeps (s.changeUnit k u) :=
  .iff_ (fun _ => .setUnit _ _ _ h) fun _ => .after (.markStrand _ _) (.setUnit _ _ _ h)

theorem State.Keeps.uncoverFace (s : State) (k : Fin 16) : s.Keeps (s.uncoverFace k) :=
  .changeUnit _ _ _ fun h => h.uncover _
theorem State.Keeps.coverFace (s : State) (k : Fin 16) : s.Keeps (s.coverFace k) := .changeUnit _ _ _ fun h => h.cover _

theorem State.Keeps.changePredictor (s : State) (k : Fin 4) (p : Predictor) : s.Keeps (s.changePredictor k p) :=
  .iff_ (fun _ => .setPredictor _ _ _) fun _ => .after (.markStrand _ _) (.setPredictor _ _ _)

theorem State.Keeps.stampPredictor (s : State) (k : Fin 4) (t : Nat) : s.Keeps (s.stampPredictor k t) :=
  .iff_ (fun _ => .after (.markDirty _ _) (.after (.raise _ _) (.changePredictor _ _ _))) fun _ => .changePredictor _ _ _

/-! ### Findings -/

theorem State.Keeps.filterFinding (s : State) (f : Finding) : s.Keeps (s.filterFinding f).2 := by
  unfold State.filterFinding
  split <;> exact .same rfl rfl

theorem State.Keeps.alertFinding (s : State) (f : Finding) : s.Keeps (s.alertFinding f) := by
  unfold State.alertFinding
  dsimp only
  split
  · exact .after (.markDirty _ _) (.after (.raise _ _) (.setBillet _ _ _))
  · exact .refl s

theorem State.Keeps.evidenceFinding (s : State) (f : Finding) (x : Source) : s.Keeps (s.evidenceFinding f x).2 := by
  unfold State.evidenceFinding
  split
  · exact .requestCopy _ _
  · exact .refl s

theorem insertBy_perm {α : Type} (before : α → α → Bool) (x : α) (l : List α) : (insertBy before x l).Perm (x :: l) := by
  induction l with
  | nil => exact .refl _
  | cons y rest ih =>
    unfold insertBy
    split
    · exact .refl _
    · exact (ih.cons y).trans (.swap x y rest)

/-- The entry that the pool gives is one of its 256, and on no list (R134). -/
theorem State.freeEntry_spec {s : State} {n : Nat} (h : s.freeEntry = some n) :
    n < Config.poolPlaces ∧ ∀ k, n ∉ (s.billet k).numbers := by
  unfold State.freeEntry at h
  refine ⟨List.mem_range.mp (List.mem_of_find?_eq_some h), fun k hk => ?_⟩
  have := List.find?_some h
  simp only [Bool.not_eq_true', List.contains_eq_mem, decide_eq_false_iff_not] at this
  exact this (List.mem_flatMap.mpr ⟨k, List.mem_finRange k, hk⟩)

/-- A list joined by an entry of the pool that no list holds. -/
theorem State.Keeps.joinPool (s : State) (k : Fin 4) (b : Billet) (n : Nat) (h : s.freeEntry = some n)
    (g : b.numbers.Perm (n :: (s.billet k).numbers)) : s.Keeps (s.setBillet k b) := by
  obtain ⟨hn, free⟩ := State.freeEntry_spec h
  refine .of (fun i => { i with units := fun j => ?_, pool := i.pool.join k n hn free ?_ fun j hj => ?_ }) rfl
  · rw [State.unit_setBillet]
    exact i.units j
  · rw [State.billet_setBillet, if_pos rfl]
    exact g
  · rw [State.billet_setBillet, if_neg hj.symm]

theorem State.Keeps.holdFinding (s : State) (f : Finding) : s.Keeps (s.holdFinding f) := by
  unfold State.holdFinding
  dsimp only
  split
  · next n h => exact .after (.markDirty _ _) (.after (.markDirty _ _) (.joinPool _ _ _ n h ((insertBy_perm _ _ _).map _)))
  · exact .after (.markDirty _ _) (.after (.raise _ _) (.setBillet _ _ _))

theorem State.Keeps.handleFinding (s : State) (f : Finding) (x : Source) : s.Keeps (s.handleFinding f x) :=
  .after (.holdFinding _ _) (.after (.evidenceFinding _ _ _) (.after (.alertFinding _ _)
    (.after (.filterFinding _ _) (.setBillet _ _ _))))

/-! ### Billet closes -/

theorem State.Keeps.entryFreed (s : State) (k : Fin 4) (n : Nat) : s.Keeps (s.entryFreed k n) :=
  .after (.markDirty _ _) (.after (.markDirty _ _) (.forgetEntry _ _))

theorem State.Keeps.takeFront (s : State) (k : Fin 4) (e : PoolEntry) (f : Working → Working) :
    s.Keeps (s.takeFront k e f) := .after (.entryFreed _ _ _) (.setBillet _ _ _ ((List.tail_sublist _).map _))

/-- The ring's put index moved to a place of the ring. -/
theorem State.Keeps.setRing (s : State) (r : Ring) (h : s.ring.put < Config.ringPlaces → r.put < Config.ringPlaces) :
    s.Keeps { s with ring := r } :=
  .of (fun i => { i with put := h i.put }) rfl

theorem State.Keeps.takeUnpublished (s : State) (k : Fin 4) (e : PoolEntry) : s.Keeps (s.takeUnpublished k e) :=
  .after (.raise _ _) (.after (.setRing _ _ id) (.after (.setBillet _ _ _) (.takeFront _ _ _ _)))

theorem State.Keeps.takePublished (s : State) (k : Fin 4) (e : PoolEntry) : s.Keeps (s.takePublished k e) :=
  .after (.setRing _ _ fun _ => Nat.mod_lt _ (by decide)) (.after (.setBillet _ _ _) (.after (.takeFront _ _ _ _)
    (.pushOwn _ _)))

theorem State.Keeps.queueHalf (s : State) (k : Fin 4) : s.Keeps (s.queueHalf k) :=
  .after (.setBillet _ _ _ (by rw [State.billet_pushOwn]; exact .refl _)) (.pushOwn _ _)

theorem State.Keeps.queueHalves (k : Fin 4) (n : Nat) (g : Bool) (s : State) : s.Keeps (State.queueHalves k n g s) := by
  induction n generalizing g s with
  | zero => exact .refl s
  | succ n ih =>
    unfold State.queueHalves
    split
    · split
      · exact .after (ih _ _) (.queueHalf _ _)
      · exact .beginWait _ _
    · exact .refl s

theorem State.Keeps.endTaking (s : State) (k : Fin 4) (g : Bool) : s.Keeps (s.endTaking k g) := by
  refine .after (.queueHalves _ _ _ _) (.after (.setUnit _ _ _ fun h => ?_) (.setBillet _ _ _))
  simp only [State.unit_setBillet] at h
  exact h.same rfl rfl (List.length_filter_le ..)

theorem State.Keeps.runTaking (k : Fin 4) (n : Nat) (g : Bool) (s : State) : s.Keeps (State.runTaking k n g s) := by
  induction n generalizing g s with
  | zero => exact .refl s
  | succ n ih =>
    unfold State.runTaking
    split
    · exact .endTaking _ _ _
    · split
      · exact .endTaking _ _ _
      · split
        · exact .after (ih _ _) (.takeFront _ _ _ _)
        · split
          · exact .after (ih _ _) (.takeUnpublished _ _ _)
          · split
            · exact .after (ih _ _) (.takePublished _ _ _)
            · exact .beginWait _ _

theorem State.Keeps.continueTaking (s : State) (k : Fin 4) (g : Bool) : s.Keeps (s.continueTaking k g) := .runTaking ..

theorem State.Keeps.startClose (s : State) (k : Fin 4) (d : CloseKind) (t : Nat) : s.Keeps (s.startClose k d t) :=
  .after (.continueTaking _ _ _) (.setBillet _ _ _)

theorem State.Keeps.closeGiven (s : State) (k : Fin 4) : s.Keeps (s.closeGiven k) := by
  unfold State.closeGiven
  split
  · exact .refl s
  · exact .continueTaking _ _ _
  · exact .queueHalves _ _ _ _

theorem State.Keeps.forgetEntries (k : Fin 4) (l : List PoolEntry) (s : State) :
    s.Keeps (State.forgetEntries k l s) := by
  induction l generalizing s with
  | nil => exact .refl s
  | cons e rest ih => exact .after (ih _) (.entryFreed _ _ _)

theorem State.Keeps.discardHolds (s : State) (k : Fin 4) (n : Nat) : s.Keeps (s.discardHolds k n) :=
  .after (.forgetEntries _ _ _) (.setBillet _ _ _ (List.nil_sublist _))

theorem State.Keeps.endFinal (s : State) (k : Fin 4) : s.Keeps (s.endFinal k) :=
  .after (.markDirty _ _) (.setStrand _ _ _ fun h => h.same rfl rfl (le_refl _))

theorem State.Keeps.finalWithoutRecord (s : State) (k : Fin 4) : s.Keeps (s.finalWithoutRecord k) :=
  .after (.endFinal _ _) (.after (.setBillet _ _ _) (.discardHolds _ _ _))

theorem State.Keeps.startFinal (s : State) (k : Fin 4) (f : Nat) : s.Keeps (s.startFinal k f) :=
  .iff_ (fun _ => .finalWithoutRecord _ _) fun _ => .startClose _ _ _ _

theorem State.Keeps.handBoundary (s : State) (k : Fin 4) (b : Nat) : s.Keeps (s.handBoundary k b) :=
  .iff_ (fun _ => .startClose _ _ _ _) fun _ => .refl s

theorem State.Keeps.handFinal (s : State) (k : Fin 4) (f : Nat) : s.Keeps (s.handFinal k f) :=
  .iff_ (fun _ => .startFinal _ _ _) fun _ => .setBillet _ _ _

theorem StrandUnit.Ok.closeEnded {u : StrandUnit} (d : CloseKind) (h : u.Ok) : (u.closeEnded d).Ok := by
  cases d <;> exact h.same rfl rfl (le_refl _)

theorem State.Keeps.startWaitingFinal (s : State) (k : Fin 4) : s.Keeps (s.startWaitingFinal k) := by
  unfold State.startWaitingFinal
  split
  · exact .refl s
  · exact .after (.startFinal _ _ _) (.setBillet _ _ _)

theorem State.Keeps.flip (s : State) (k : Fin 4) : s.Keeps (s.flip k) := by
  have h (d : CloseKind) : s.Keeps ((((s.setBillet k (s.billet k).flip).setUnit k ((s.unit k).closeEnded d)).raise .billet).markStrand k) := by
    refine .after (.markStrand _ _) (.after (.raise _ _) (.after (.setUnit _ _ _ fun h => ?_) (.setBillet _ _ _)))
    simp only [State.unit_setBillet] at h
    exact h.closeEnded d
  unfold State.flip
  dsimp only
  split
  · next e => rw [e]; exact .after (.endFinal _ _) (.after (.discardHolds _ _ _) (h _))
  · next e => rw [e]; exact .after (.startWaitingFinal _ _) (h _)

theorem State.Keeps.halfAnswered (s : State) (k : Fin 4) : s.Keeps (s.halfAnswered k) :=
  .iff_ (fun _ => .after (.flip _ _) (.setBillet _ _ _)) fun _ => .setBillet _ _ _

theorem State.Keeps.queueZeros (n : Nat) (g : Bool) (s : State) : s.Keeps (State.queueZeros n g s) := by
  induction n generalizing g s with
  | zero => exact .refl s
  | succ n ih =>
    unfold State.queueZeros
    split
    · split
      · exact .after (ih _ _) (.after (.pushOwn _ _) (.same rfl rfl))
      · exact .beginWait _ _
    · exact .refl s

/-! ### The Track Table -/

theorem State.Keeps.handOn (s : State) (t : Track) (a b : Bool) : s.Keeps (s.handOn t a b) := by
  unfold State.handOn
  dsimp only
  split
  · exact .setTrackCounts _ _ _
  · split
    · exact .after (.changePredictor _ _ _) (.setTrackCounts _ _ _)
    · exact .setTrackCounts _ _ _
  · exact .after (.handleFinding _ _ _) (.after (.markFace _ _) (.setTrackCounts _ _ _))

theorem State.Keeps.closeEntry (s : State) (e : Fin 64) (a b : Bool) : s.Keeps (s.closeEntry e a b) := by
  unfold State.closeEntry
  split
  · exact .refl s
  · exact .after (.markFace _ _) (.after (.setTrackCounts _ _ _) (.after (.setTrack _ _ _) (.handOn _ _ _ _)))

theorem State.Keeps.closeEntries (b : Bool) (l : List (Fin 64 × Track)) (s : State) :
    s.Keeps (State.closeEntries b l s) := by
  induction l generalizing s with
  | nil => exact .refl s
  | cons x rest ih => exact .after (ih _) (.closeEntry _ _ _ _)

theorem State.Keeps.interruptFace (s : State) (k : Fin 16) : s.Keeps (s.interruptFace k) :=
  .after (.setFace _ _ _) (.closeEntries _ _ _)

theorem State.Keeps.ageTracks (s : State) (r : LineResult) : s.Keeps (s.ageTracks r) := .closeEntries ..

theorem State.Keeps.extendTracks (w : Option Window) (r : LineResult) (m : List (Segment × Option (Fin 64)))
    (l : List (Fin 64 × Track)) (s : State) : s.Keeps (State.extendTracks w r m l s) := by
  induction l generalizing s with
  | nil => exact .refl s
  | cons x rest ih =>
    refine .after (ih _) ?_
    exact .iff_ (fun _ => .refl s) fun _ => .setTrack _ _ _

theorem State.Keeps.openTrack (s : State) (e : Fin 64) (t : Track) : s.Keeps (s.openTrack e t) :=
  .after (.markFace _ _) (.after (.setTrackCounts _ _ _) (.setTrack _ _ _))

theorem State.Keeps.openSegment (s : State) (w : Option Window) (r : LineResult) (g : Segment) :
    s.Keeps (s.openSegment w r g) := by
  unfold State.openSegment
  dsimp only
  split
  · exact .openTrack _ _ _
  · split
    · exact .after (.markFace _ _) (.after (.raise _ _) (.setTrackCounts _ _ _))
    · split
      · exact .after (.openTrack _ _ _) (.after (.setTrackCounts _ _ _) (.closeEntry _ _ _ _))
      · exact .after (.markFace _ _) (.after (.raise _ _) (.setTrackCounts _ _ _))

theorem State.Keeps.openSegments (w : Option Window) (r : LineResult) (l : List Segment) (s : State) :
    s.Keeps (State.openSegments w r l s) := by
  induction l generalizing s with
  | nil => exact .refl s
  | cons x rest ih => exact .after (ih _) (.openSegment _ _ _ _)

theorem State.Keeps.useResult (s : State) (r : LineResult) : s.Keeps (s.useResult r) := by
  unfold State.useResult
  dsimp only
  split
  · exact .after (.setTrackCounts _ _ _) (.after (.openSegments _ _ _ _) (.after (.extendTracks _ _ _ _ _)
      (.after (.stampPredictor _ _ _) (.ageTracks _ _))))
  · exact .after (.openSegments _ _ _ _) (.after (.extendTracks _ _ _ _ _)
      (.after (.stampPredictor _ _ _) (.ageTracks _ _)))

theorem State.Keeps.takeResult (s : State) (r : LineResult) : s.Keeps (s.takeResult r) := by
  unfold State.takeResult
  dsimp only
  split
  · exact .after (.setFace _ _ _) (.setFace _ _ _)
  · exact .after (.useResult _ _) (.setFace _ _ _)

theorem State.Keeps.cutTrack (s : State) (b : Nat) (e : Fin 64) (t : Track) : s.Keeps (s.cutTrack b e t) :=
  .iff_ (fun _ => .closeEntry _ _ _ _) fun _ => .after (.setTrackCounts _ _ _) (.after (.setTrack _ _ _) (.handOn _ _ _ _))

theorem State.Keeps.cutTracks (b : Nat) (l : List (Fin 64 × Track)) (s : State) : s.Keeps (State.cutTracks b l s) := by
  induction l generalizing s with
  | nil => exact .refl s
  | cons x rest ih => exact .after (ih _) (.cutTrack _ _ _ _)

/-- A queue changed with no more results in it. -/
theorem State.Keeps.setQueue (s : State) (l : List QueueEntry)
    (h : resultsQueued s.lineQueue ≤ Config.resultPlaces → resultsQueued l ≤ Config.resultPlaces) :
    s.Keeps { s with lineQueue := l } :=
  .of (fun i => { i with results := h i.results }) rfl

theorem resultsQueued_append (a b : List QueueEntry) : resultsQueued (a ++ b) = resultsQueued a + resultsQueued b := by
  simp [resultsQueued, List.filter_append]

/-- A marker is no result. -/
theorem resultsQueued_marker (l : List QueueEntry) (k : Fin 4) (b : Nat) :
    resultsQueued (l ++ [.boundary k b]) = resultsQueued l ∧ resultsQueued (l ++ [.stop k b]) = resultsQueued l := by
  constructor <;> rw [resultsQueued_append] <;> rfl

theorem State.Keeps.queueOwedStop (s : State) (k : Fin 4) : s.Keeps (s.queueOwedStop k) := by
  unfold State.queueOwedStop
  dsimp only
  split
  · refine .after (.setUnit _ _ _ fun h => ?_) (.setQueue _ _ fun h => by simpa [resultsQueued_marker] using h)
    exact StrandUnit.Ok.same (u := s.unit k) h rfl rfl (le_refl _)
  · exact .refl s
  · exact .refl s
  · exact .refl s

theorem State.Keeps.takeBoundary (s : State) (k : Fin 4) (b : Nat) : s.Keeps (s.takeBoundary k b) :=
  .after (.handBoundary _ _ _) (.after (.cutTracks _ _ _) (.queueOwedStop _ _))

theorem State.Keeps.takeStop (s : State) (k : Fin 4) (f : Nat) : s.Keeps (s.takeStop k f) :=
  .after (.handFinal _ _ _) (.after (.closeEntries _ _ _) (.setUnit _ _ _ fun h => h.same rfl rfl (le_refl _)))

theorem State.Keeps.take (s : State) : s.Keeps s.take := by
  unfold State.take
  split
  · exact .refl s
  · next x rest e =>
    have h : s.Keeps { s with lineQueue := rest } :=
      .setQueue _ _ fun h => by
        have : resultsQueued (x :: rest) = resultsQueued [x] + resultsQueued rest := resultsQueued_append [x] rest
        rw [e] at h
        omega
    dsimp only
    split
    · exact .after (.takeResult _ _) h
    · exact .after (.takeBoundary _ _ _) h
    · exact .after (.takeStop _ _ _) h

/-! ### Heads, models and lines -/

theorem State.Keeps.suspendForView (s : State) (k : Fin 16) : s.Keeps (s.suspendForView k) :=
  .iff_ (fun _ => .after (.uncoverFace _ _) (.setModel _ _ _)) fun _ => .setModel _ _ _
theorem State.Keeps.resumeForView (s : State) (k : Fin 16) : s.Keeps (s.resumeForView k) := .setModel _ _ _

theorem State.Keeps.headEntersOff (s : State) (k : Fin 16) : s.Keeps (s.headEntersOff k) :=
  .after (.uncoverFace _ _) (.after (.setModel _ _ _) (.interruptFace _ _))

/-- The head that a counter below 257 gives in ACTIVE and PASSIVE (R37). -/
theorem headStateOf_ok (h : Head) (e : Nat) (le : e ≤ 256) (g : h.goodRun ≤ Config.goodRunLines) (w : Bool) :
    ({ h with errors := e, state := headStateOf e, warning := w } : Head).Ok := by
  unfold headStateOf
  split
  · next a => exact ⟨le, by simp; omega, by simp, by simp, by simp, g, by simp⟩
  · split
    · next a b => exact ⟨le, by simp; omega, by simp, fun _ => b, by simp, g, by simp⟩
    · next a b => exact ⟨le, by simp; omega, fun _ => Nat.lt_of_not_le b, by simp, by simp, g, by simp⟩

theorem Head.Ok.plus8 {h : Head} (o : h.Ok) : h.plus8.Ok := headStateOf_ok h _ (Nat.min_le_right ..) o.goodRun _
theorem Head.Ok.minus1 {h : Head} (o : h.Ok) : h.minus1.Ok :=
  headStateOf_ok h _ ((Nat.sub_le ..).trans o.counter) o.goodRun _
theorem Head.Ok.backOff (h : Head) : h.backOff.Ok := by
  constructor <;> simp [Head.backOff]
theorem Head.Ok.reset : Head.reset.Ok := by constructor <;> decide
theorem Head.Ok.activeAt0 (w : Bool) (n : Nat) (h : n ≤ Config.goodRunLines) :
    ({ state := .active, errors := 0, warning := w, goodRun := n } : Head).Ok := by
  constructor <;> simp [h]

/-- A RECOVERING head with no errors and a run below 64 lines. -/
theorem Head.Ok.recoveringAt {h : Head} (e : h.state = .recovering) (z : h.errors = 0) (g : h.goodRun < Config.goodRunLines) :
    h.Ok := by
  constructor <;> simp [e, z, g, Nat.le_of_lt g]

theorem State.Keeps.changeHead (s : State) (k : Fin 16) (x : Head) (h : (s.face k).head.Ok → x.Ok) :
    s.Keeps (s.changeHead k x) :=
  .iff_ (fun _ => .setHead _ _ _ h) fun _ => .after (.markFace _ _) (.setHead _ _ _ h)

theorem State.Keeps.headError (s : State) (k : Fin 16) : s.Keeps (s.headError k) := by
  have g : s.Keeps ((s.changeHead k (s.face k).head.plus8).raiseIf (s.face k).head.plus8Raises .head) :=
    .after (.raiseIf _ _ _) (.changeHead _ _ _ fun h => h.plus8)
  have h : s.Keeps (if (s.face k).head.plus8.state = .off then
      ((s.changeHead k (s.face k).head.plus8).raiseIf (s.face k).head.plus8Raises .head).headEntersOff k
      else (s.changeHead k (s.face k).head.plus8).raiseIf (s.face k).head.plus8Raises .head) :=
    .iff_ (fun _ => .after (.headEntersOff _ _) g) fun _ => g
  unfold State.headError
  dsimp only
  split
  · exact h
  · exact h
  · exact .after (.raise _ _) (.changeHead _ _ _ fun _ => .backOff _)
  · exact .refl s
  · exact .refl s

theorem State.Keeps.headGood (s : State) (k : Fin 16) : s.Keeps (s.headGood k) := by
  unfold State.headGood
  dsimp only
  split
  · exact .changeHead _ _ _ fun h => h.minus1
  · exact .changeHead _ _ _ fun h => h.minus1
  · next e =>
    split
    · next g => exact .after (.setModel _ _ _) (.changeHead _ _ _ fun _ => .activeAt0 _ _ (le_of_eq g))
    · next g =>
      refine .changeHead _ _ _ fun h => .recoveringAt e (h.zero (.inr e)) ?_
      have := h.recovering e
      exact lt_of_le_of_ne this g
  · exact .refl s
  · exact .refl s

theorem State.Keeps.restartHead (s : State) (k : Fin 16) : s.Keeps (s.restartHead k) :=
  .setFace _ _ _ fun _ => .recoveringAt rfl rfl (Nat.zero_lt_succ _)

theorem State.Keeps.captureError (s : State) (k : Fin 16) : s.Keeps (s.captureError k) :=
  .after (.raise _ _) (.after (.headError _ _) (.setCapture _ _ _))

theorem State.Keeps.offerResult (s : State) (r : LineResult) : s.Keeps (s.offerResult r) := by
  unfold State.offerResult
  dsimp only
  split
  · next h =>
    exact .after (.setFace _ _ _) (.setQueue _ _ fun _ => by
      rw [resultsQueued_append]
      exact h)
  · exact .after (.markFace _ _) (.after (.raise _ _) (.setFace _ _ _))

theorem State.Keeps.processLine (s : State) (l : Line) : s.Keeps (s.processLine l) := by
  unfold State.processLine
  dsimp only
  split
  · exact .after (.offerResult _ _) (.setFace _ _ _)
  · split
    · exact .after (.coverFace _ _) (.setFace _ _ _)
    · exact .setFace _ _ _

theorem State.Keeps.lineReaches (s : State) (l : Line) : s.Keeps (s.lineReaches l) := by
  unfold State.lineReaches
  dsimp only
  split
  · exact .processLine _ _
  · exact .setCounts _ _ _
  · exact .setCounts _ _ _

theorem State.Keeps.tearLine (s : State) (w k : Fin 16) : s.Keeps (s.tearLine w k) :=
  .after (.headError _ _) (.after (.setCapture _ _ _) (.setAssembler _ _ _))

theorem State.Keeps.completeLine (s : State) (w : Fin 16) (x : Window) (l : List Byte) : s.Keeps (s.completeLine w x l) := by
  unfold State.completeLine
  dsimp only
  split
  · exact .after (.setAssembler _ _ _) (.after (.setCapture _ _ _) (.after (.lineReaches _ _) (.headGood _ _)))
  · exact .after (.setAssembler _ _ _) (.after (.setCapture _ _ _) (.headGood _ _))

theorem State.Keeps.appendPiece (s : State) (w : Fin 16) (x : Window) (p : LinePiece) : s.Keeps (s.appendPiece w x p) :=
  .iff_ (fun _ => .setAssembler _ _ _) fun _ => .completeLine _ _ _ _

theorem State.Keeps.pieceInIdle (s : State) (w : Fin 16) (x : Window) (p : LinePiece) : s.Keeps (s.pieceInIdle w x p) := by
  have h (c : Bool) (a : CaptureCounts) : s.Keeps (if c then (s.setCapture x.channel a).headError x.channel else s) :=
    .iff_ (fun _ => .after (.headError _ _) (.setCapture _ _ _)) fun _ => .refl s
  unfold State.pieceInIdle
  dsimp only
  split
  · exact .refl s
  · split
    · exact .after (.appendPiece _ _ _ _) (.after (.setAssembler _ _ _) (h _ _))
    · exact .after (.tearLine _ _ _) (.after (.setAssembler _ _ _) (h _ _))

theorem State.Keeps.handlePiece (s : State) (w : Fin 16) (x : Window) (p : LinePiece) : s.Keeps (s.handlePiece w x p) := by
  unfold State.handlePiece
  dsimp only
  split
  · split
    · exact .appendPiece _ _ _ _
    · exact .after (.pieceInIdle _ _ _ _) (.tearLine _ _ _)
  · exact .pieceInIdle _ _ _ _

theorem State.Keeps.captureWrite (s : State) (w : Fin 16) (o : Nat) (d : List Byte) (b : List Bool) :
    s.Keeps (s.captureWrite w o d b) := by
  unfold State.captureWrite
  generalize linePieces (s.window w) o d b = l
  generalize s.window w = x
  induction l generalizing s with
  | nil => exact .refl s
  | cons p rest ih => exact .after (ih _) (.handlePiece _ _ _ _)

theorem State.Keeps.enableWindow (s : State) (w : Fin 16) : s.Keeps (s.enableWindow w) :=
  .after (.markFace _ _) (.after (.uncoverFace _ _)
    (.after (.setFace _ _ _ fun _ => .activeAt0 _ _ (Nat.zero_le _)) (.setAssembler _ _ _)))

theorem State.Keeps.disableWindow (s : State) (w : Fin 16) : s.Keeps (s.disableWindow w) :=
  .after (.markFace _ _) (.after (.uncoverFace _ _) (.after (.abortWindow _ _)
    (.after (.setFace _ _ _ fun _ => .reset) (.after (.interruptFace _ _) (.setAssembler _ _ _)))))

theorem State.Keeps.abandonLines (s : State) : s.Keeps s.abandonLines := .same rfl rfl

/-! ### The strand's own events -/

theorem State.Keeps.atTime (s : State) (t : Nat) : s.Keeps (s.atTime t) := .same rfl rfl

theorem State.Keeps.onFaces (k : Fin 4) (f : State → Fin 16 → State) (s : State) (h : ∀ (t : State) j, t.Keeps (f t j)) :
    s.Keeps (s.onFaces k f) :=
  .after (h _ _) (.after (h _ _) (.after (h _ _) (h _ _)))

theorem State.Keeps.cutEvent (s : State) (k : Fin 4) : s.Keeps (s.cutEvent k) := by
  unfold State.cutEvent
  dsimp only
  split
  · exact .after (.markStrand _ _) (.after (.raise _ _) (.setUnit _ _ _ fun h => h.same rfl rfl (le_refl _)))
  · refine .after (.markStrand _ _) (.after (.setUnit _ _ _ fun h => ?_)
      (.setQueue _ _ fun h => by simpa [resultsQueued_marker] using h))
    exact StrandUnit.Ok.same (u := s.unit k) h rfl rfl (le_refl _)

theorem State.Keeps.cutLine (s : State) (k : Fin 4) : s.Keeps (s.cutLine k) :=
  .iff_ (fun _ => .cutEvent _ _) fun _ => .refl s

theorem State.Keeps.testComparator (s : State) (k : Fin 4) : s.Keeps (s.testComparator k) := by
  unfold State.testComparator
  split
  · exact .refl s
  · split
    · exact .after (.setUnit _ _ _ fun h => h.same rfl rfl (le_refl _)) (.cutEvent _ _)
    · exact .refl s

theorem StrandUnit.Ok.pulseAccepted {u : StrandUnit} (x : StrandSettings) (t : Nat) (h : u.Ok) :
    (u.pulseAccepted x t).Ok := by
  unfold StrandUnit.pulseAccepted StrandUnit.advance
  dsimp only
  split
  · exact ⟨le_refl _, le_refl _, h.gaps⟩
  · next g => exact ⟨not_lt.mp g, Nat.le_of_lt_succ (Nat.mod_lt _ (by decide)), h.gaps⟩

theorem State.Keeps.encoderPulse (s : State) (k : Fin 4) : s.Keeps (s.encoderPulse k) := by
  unfold State.encoderPulse
  dsimp only
  split
  · exact .refl s
  · split
    · exact .after (.raise _ _) (.setUnit _ _ _ fun h => h.same rfl rfl (le_refl _))
    · exact .after (.testComparator _ _) (.setUnit _ _ _ fun h => h.pulseAccepted _ _)

theorem State.Keeps.holdExpiry (s : State) (k : Fin 4) : s.Keeps (s.holdExpiry k) := by
  unfold State.holdExpiry
  dsimp only
  split
  · split
    · exact .after (.markStrand _ _) (.after (.raise _ _) (.after (.setPredictor _ _ _)
        (.after (.setUnit _ _ _ fun h => StrandUnit.Ok.same (u := s.unit k) h rfl rfl (le_refl _)) (.atTime _ _))))
    · exact .refl s
  · exact .refl s

theorem State.Keeps.oscillation (s : State) (k : Fin 4) : s.Keeps (s.oscillation k) := .changePredictor _ _ _

theorem State.Keeps.viewBlocks (s : State) (k : Fin 4) : s.Keeps (s.viewBlocks k) := by
  unfold State.viewBlocks
  dsimp only
  exact .after (.onFaces _ _ _ fun t j => .suspendForView t j) (.after (.markStrand _ _) (.after (.raise _ _)
    (.setUnit _ _ _ fun h => h.same rfl rfl (le_refl _))))

theorem State.Keeps.viewClears (s : State) (k : Fin 4) : s.Keeps (s.viewClears k) := by
  unfold State.viewClears
  dsimp only
  exact .after (.onFaces _ _ _ fun t j => .resumeForView t j)
    (.after (.markStrand _ _) (.setUnit _ _ _ fun h => h.same rfl rfl (le_refl _)))

theorem State.Keeps.viewChange (s : State) (k : Fin 4) (l : ViewLevel) : s.Keeps (s.viewChange k l) := by
  unfold State.viewChange
  split
  · exact .viewBlocks _ _
  · exact .viewClears _ _
  · exact .refl s
  · exact .refl s

theorem State.Keeps.viewEdge (s : State) (k : Fin 4) (x : HeldLevel) : s.Keeps (s.viewEdge k x) :=
  .iff_ (fun _ => .atTime _ _) fun _ => .after (.viewChange _ _ _) (.atTime _ _)

theorem State.Keeps.ackView (s : State) (m : Byte) : s.Keeps (s.ackView m) := by
  refine .mapStrands s _ (fun k h => ?_) fun k => ?_
  · split
    · exact h.same rfl rfl (le_refl _)
    · exact h
  · split <;> rfl

theorem StrandUnit.Ok.start (u : StrandUnit) (x : StrandSettings) (t : Nat) (w : BitVec 4) : (u.start x t w).Ok := by
  refine ⟨Nat.zero_le _, Nat.zero_le _, ?_⟩
  simp only [StrandUnit.start]
  split <;> simp [Config.gapPlaces]

theorem State.Keeps.startStrand (s : State) (k : Fin 4) : s.Keeps (s.startStrand k) := by
  unfold State.startStrand
  dsimp only
  exact .after (.onFaces _ _ _ fun t j => .setModel t j _)
    (.after (.markStrand _ _) (.setStrand _ _ _ fun _ => StrandUnit.Ok.start ..))

theorem State.Keeps.stopStrand (s : State) (k : Fin 4) : s.Keeps (s.stopStrand k) := by
  have h (p : StopPhase) (o : (s.unit k).Ok) : ((s.unit k).stop p).Ok :=
    o.same rfl rfl (by simp [StrandUnit.stop, closeAllGaps])
  unfold State.stopStrand
  dsimp only
  split
  · exact .after (.markStrand _ _) (.setUnit _ _ _ (h _))
  · exact .after (.markStrand _ _) (.after (.setUnit _ _ _ (h _)) (.setQueue _ _ fun h => by simpa [resultsQueued_marker] using h))

theorem State.Keeps.alertExpiry (s : State) (k : Fin 4) : s.Keeps (s.alertExpiry k) := by
  unfold State.alertExpiry
  dsimp only
  split
  · exact .after (.markStrand _ _) (.after (.setBillet _ _ _) (.atTime _ _))
  · exact .refl s

theorem State.Keeps.periodExpiry (s : State) : s.Keeps s.periodExpiry := by
  unfold State.periodExpiry
  split
  · next d _ =>
    exact .after (b := (s.atTime d).mapMarks BlockMarks.atPeriod) (.same rfl rfl)
      (.after (.mapMarks _ _ fun _ => rfl) (.atTime _ _))
  · exact .refl s

end Sys2Proof.Machine
end

