-- ==== Sys2Proof/Laws/KeepsPath.lean ====
section
/-!
SUPPORT. What the Status Writer, the Control Page writes, the memory path and the own responses keep, and what an event keeps
(see Laws/Keeps.lean).
-/
namespace Sys2Proof.Machine

/- One proof after another: at once they ask for more threads than the memory allows. -/
set_option Elab.async false

/-! ### The Status Writer -/

theorem State.Holds.issueBlock (s : State) (b : Fin 22) : s.Holds (s.issueBlock b) := by
  unfold State.issueBlock
  dsimp only
  have h : s.Holds (s.setMark b (s.mark b).atIssue) := .same rfl rfl
  split
  · exact .after (b := (s.setMark b (s.mark b).atIssue).pushOwn _) (.same rfl rfl)
      (.after (State.Keeps.pushOwn _ _).toHolds h)
  · exact .after (State.Keeps.pushOwn _ _).toHolds h

theorem State.Holds.issueBlocks (l : List (Fin 22)) (s : State) : s.Holds (State.issueBlocks l s) := by
  induction l generalizing s with
  | nil => exact (State.Keeps.endWait _ _).toHolds
  | cons b rest ih =>
    unfold State.issueBlocks
    split
    · split
      · exact .after (ih _) (.issueBlock _ _)
      · exact (State.Keeps.beginWait _ _).toHolds
    · exact ih s

theorem State.Holds.statusGiven (s : State) : s.Holds s.statusGiven := by
  unfold State.statusGiven
  split
  · exact .issueBlock _ _
  · exact .refl s

theorem State.Keeps.opened (s : State) : s.Keeps s.opened := .same rfl rfl

theorem State.Holds.settled (t s : State) : t.Holds (t.settled s) :=
  .after (.issueBlocks _ _) (b := t.markChanges s) (.same rfl rfl)

/-- An event holds what its operation holds. -/
theorem State.Holds.event (s : State) (f : State → State) (h : ∀ t : State, t.Holds (f t)) : s.Holds (s.event f) := by
  unfold State.event
  split
  · exact .refl s
  · exact .after (.settled _ _) (.after (h _) (State.Keeps.opened s).toHolds)

/-! ### Control Page writes -/

theorem merged_wf (m cells : List Host.Cell) (h : Memory.wf m = true) : Memory.wf (merged m cells) = true :=
  Memory.wf_writeAll _ _ h

theorem run_ne_pass : ¬ PartState.run = PartState.pass := by decide
theorem starting_ne_pass : ¬ PartState.starting = PartState.pass := by decide

/-- The Global Enable byte that a shadow holds. -/
theorem globals_enable (m : List Host.Cell) : (globals m).enable = (Memory.read m 0).toNat := by
  simp [globals, Memory.field, Memory.readBytes, leNat]

/-- The shadow replaced by one in canonical form whose Global Enable byte is the same. -/
theorem State.Keeps.setShadow (s : State) (m : List Host.Cell) (h : Memory.wf s.shadow = true → Memory.wf m = true)
    (g : Memory.wf s.shadow = true → Memory.read m 0 = Memory.read s.shadow 0) : s.Keeps { s with shadow := m } := by
  refine .of (fun i => { i with shadow := h i.shadow, pass := fun hp => ?_ }) rfl
  have := i.pass hp
  unfold State.globals at this ⊢
  rw [globals_enable] at this ⊢
  rw [g i.shadow]
  exact this

theorem State.Keeps.takeShadow (s : State) (m : List Host.Cell) (h : Memory.wf s.shadow = true → Memory.wf m = true)
    (g : Memory.wf s.shadow = true → Memory.read m 0 = Memory.read s.shadow 0) : s.Keeps (s.takeShadow m) :=
  .iff_ (fun _ => .setShadow s m h g) fun _ => .after (.markDirty _ _) (.setShadow s m h g)

/-- The invariant of a state taken as a RUN one: all of it but what it says of PASS. -/
theorem State.Inv.asRun {s : State} (i : s.Inv) : ({ s with part := .run } : State).Inv :=
  { i with pass := fun h => absurd h run_ne_pass }

/-- A shadow in canonical form keeps all of the invariant but what it says of PASS. -/
theorem State.Inv.takeShadow {s : State} (i : s.Inv) (m : List Host.Cell) (h : Memory.wf m = true) :
    ({ s.takeShadow m with part := .run } : State).Inv := by
  have e : ({ s.takeShadow m with part := .run } : State).bounds = ({ s with part := .run, shadow := m } : State).bounds := by
    unfold State.takeShadow
    dsimp only
    split <;> rfl
  exact State.Inv.ofBounds (s := { s with part := .run, shadow := m })
    { i with shadow := h, pass := fun h => absurd h run_ne_pass } e

theorem State.takeShadow_fixed (s : State) (m : List Host.Cell) : (s.takeShadow m).fixed = s.fixed := by
  unfold State.takeShadow
  dsimp only
  split <;> rfl

theorem State.takeShadow_path (s : State) (m : List Host.Cell) : (s.takeShadow m).path = s.path := by
  unfold State.takeShadow
  dsimp only
  split <;> rfl

theorem State.takeShadow_sequence (s : State) (m : List Host.Cell) (b : Fin 22) :
    ((s.takeShadow m).mark b).sequence = (s.mark b).sequence := by
  unfold State.takeShadow
  dsimp only
  split
  · rfl
  · exact (State.Keeps.markDirty { s with shadow := m } 0).sequence b

/-- The entry to STARTING keeps the invariant, whatever the Global Enable byte was (R172). -/
theorem State.Inv.enterStarting {s : State} (i : ({ s with part := .run } : State).Inv) : s.enterStarting.Inv := by
  unfold State.enterStarting
  dsimp only
  refine (State.Keeps.queueZeros _ _ _).inv ?_
  refine { i with
    pass := fun h => absurd h starting_ne_pass, put := Nat.zero_lt_succ _
    units := fun j => ?_, pool := i.pool.sub fun j => ?_ }
  · simp only [State.unit, State.strand, vget_vtab]
    exact i.units j
  · simp only [State.billet, State.strand, vget_vtab]
    exact .refl _

/-- What the entry to STARTING leaves alone. -/
theorem State.enterStarting_fixed (s : State) :
    s.enterStarting.fixed = s.fixed ∧ s.enterStarting.path.table.length ≤ s.path.table.length ∧
      (s.enterStarting.path.held.map (·.seq)).Sublist (s.path.held.map (·.seq)) ∧
      s.enterStarting.path.arrivals = s.path.arrivals ∧
      ∀ b, (s.enterStarting.mark b).sequence = (s.mark b).sequence := by
  unfold State.enterStarting
  dsimp only
  have h (t : State) (e : t.fixed = s.fixed) (p : t.path = s.path)
      (m : ∀ b, (t.mark b).sequence = (s.mark b).sequence) :
      (State.queueZeros 16 false t).fixed = s.fixed ∧
        (State.queueZeros 16 false t).path.table.length ≤ s.path.table.length ∧
        ((State.queueZeros 16 false t).path.held.map (·.seq)).Sublist (s.path.held.map (·.seq)) ∧
        (State.queueZeros 16 false t).path.arrivals = s.path.arrivals ∧
        ∀ b, ((State.queueZeros 16 false t).mark b).sequence = (s.mark b).sequence := by
    have k := State.Keeps.queueZeros 16 false t
    exact ⟨k.fixed.trans e, p ▸ k.table, p ▸ k.held, p ▸ k.arrivals, fun b => (k.sequence b).trans (m b)⟩
  exact h _ rfl rfl (State.Keeps.mapMarks s BlockMarks.atStarting fun _ => rfl).sequence

/-- The entry to PASS keeps the invariant where the Global Enable byte is not 1 (R173). -/
theorem State.Inv.enterPass {s : State} (i : ({ s with part := .run } : State).Inv) (h : s.globals.enable ≠ 1) :
    s.enterPass.Inv :=
  { i with pass := fun _ => h }

theorem State.enterPass_sequence (s : State) (b : Fin 22) : (s.enterPass.mark b).sequence = (s.mark b).sequence :=
  (State.Keeps.markDirty { s.abandonLines with part := .pass, statusTimer := none } 0).sequence b

theorem State.Keeps.checkRun (s : State) : s.Keeps s.checkRun := by
  refine .iff_ (fun _ => ?_) fun _ => .refl s
  refine .after (.markDirty _ _) (.of (fun i => i.asRun) rfl)

/-- The part follows the Global Enable byte, and what the invariant says of PASS holds again (R169). -/
theorem State.Inv.globalEffect {s : State} (m : List Host.Cell) (i : ({ s with part := .run } : State).Inv) :
    (s.globalEffect m).Inv := by
  unfold State.globalEffect
  split
  · exact i.enterStarting
  · next h =>
    split
    · next g => exact i.enterPass (by rw [g.2.2]; decide)
    · exact { i with pass := fun p e => h ⟨p, e⟩ }

theorem State.globalEffect_fixed (s : State) (m : List Host.Cell) :
    (s.globalEffect m).fixed = s.fixed ∧ (s.globalEffect m).path.table.length ≤ s.path.table.length ∧
      ((s.globalEffect m).path.held.map (·.seq)).Sublist (s.path.held.map (·.seq)) ∧
      (s.globalEffect m).path.arrivals = s.path.arrivals ∧
      ∀ b, ((s.globalEffect m).mark b).sequence = (s.mark b).sequence := by
  unfold State.globalEffect
  split
  · exact s.enterStarting_fixed
  · split
    · exact ⟨rfl, le_refl _, .refl _, rfl, s.enterPass_sequence⟩
    · exact ⟨rfl, le_refl _, .refl _, rfl, fun _ => rfl⟩

theorem State.Keeps.enableFilter (s : State) (i : Fin 8) : s.Keeps (s.enableFilter i) := .same rfl rfl

theorem State.Keeps.forEach {α : Type} (test : α → Bool) (f : State → α → State) (l : List α) (s : State)
    (h : ∀ (t : State) a, t.Keeps (f t a)) : s.Keeps (State.forEach test f l s) := by
  induction l generalizing s with
  | nil => exact .refl s
  | cons a rest ih =>
    refine .after (ih _) ?_
    exact .iff_ (fun _ => h _ _) fun _ => .refl s

theorem State.Keeps.mergeControl (s : State) (cells : List Host.Cell) : s.Keeps (s.mergeControl cells) := by
  unfold State.mergeControl
  dsimp only
  refine .after (.forEach _ _ _ _ fun t a => .enableFilter t a) (.after (.forEach _ _ _ _ fun t a => .enableWindow t a) ?_)
  have h := State.Keeps.forEach (fun w => Machine.windowEnabled s.shadow w && !Machine.windowEnabled (merged s.shadow cells) w)
    State.disableWindow (List.finRange 16) s fun t a => .disableWindow t a
  have hp := h.trans (.of (t := { State.forEach (fun w => Machine.windowEnabled s.shadow w &&
    !Machine.windowEnabled (merged s.shadow cells) w) State.disableWindow (List.finRange 16) s with part := .run })
    (fun i => i.asRun) rfl)
  revert h
  generalize State.forEach (fun w => Machine.windowEnabled s.shadow w &&
    !Machine.windowEnabled (merged s.shadow cells) w) State.disableWindow (List.finRange 16) s = s1
  intro h
  have g := (s1.takeShadow (merged s.shadow cells)).globalEffect_fixed s.shadow
  rw [State.takeShadow_fixed, State.takeShadow_path] at g
  exact .of (fun i => ((h.inv i).takeShadow _ (merged_wf _ _ i.shadow)).globalEffect _) (g.1.trans h.fixed)
    (g.2.1.trans h.table) (g.2.2.1.trans h.held) (g.2.2.2.1.trans h.arrivals)
    fun b => (g.2.2.2.2 b).trans ((State.takeShadow_sequence _ _ b).trans (h.sequence b))

theorem State.Keeps.onStrandArg (s : State) (a : Byte) (f : State → Fin 4 → State) (h : ∀ (t : State) k, t.Keeps (f t k)) :
    s.Keeps (s.onStrandArg a f) := by
  unfold State.onStrandArg
  split
  · exact .refl s
  · exact h _ _

theorem State.Keeps.onChannelArg (s : State) (a : Byte) (f : State → Fin 16 → State)
    (h : ∀ (t : State) k, t.Keeps (f t k)) : s.Keeps (s.onChannelArg a f) := by
  unfold State.onChannelArg
  split
  · exact .refl s
  · exact h _ _

theorem State.Keeps.performAction (s : State) (a : ControlAction) : s.Keeps (s.performAction a) := by
  cases a with
  | strandStart arg => exact .onStrandArg _ _ _ fun t k => .startStrand t k
  | strandStop arg => exact .onStrandArg _ _ _ fun t k => .stopStrand t k
  | cutNow arg => exact .onStrandArg _ _ _ fun t k => .cutEvent t k
  | headRestart arg => exact .onChannelArg _ _ _ fun t k => .restartHead t k
  | releaseTiles m => exact .releaseTiles _ _
  | ackCauses m => exact .acknowledge _ _
  | ackView m => exact .ackView _ _

theorem State.Keeps.performActions (cells : List Host.Cell) (l : List (Fin 7)) (s : State) :
    s.Keeps (State.performActions cells l s) := by
  induction l generalizing s with
  | nil => exact .refl s
  | cons n rest ih =>
    unfold State.performActions
    split
    · exact ih _
    · exact ih _
    · exact .after (ih _) (.performAction _ _)

theorem State.Keeps.applyControl (s : State) (cells : List Host.Cell) : s.Keeps (s.applyControl cells) :=
  .after (.performActions _ _ _) (.mergeControl _ _)

theorem State.Keeps.refuse (s : State) (r : Reason) (a : Addr) : s.Keeps (s.refuse r a) :=
  .after (.markDirty _ _) (.after (.raise _ _) (.same rfl rfl))

theorem State.Carries.control (s : State) (o : Nat) (r : Option Reason) (f : State → State)
    (h : ∀ t : State, t.Carries (f t)) : s.Carries (s.control o r f) := by
  unfold State.control
  split
  · exact .refl s
  · split
    · exact (State.Keeps.refuse _ _ _).toCarries
    · exact h s

/-- A byte of the shadow other than Global Enable is written. -/
theorem State.Keeps.writeShadow (s : State) (o : Nat) (b : Byte) (h : o ≠ 0) : s.Keeps (s.writeShadow o b) :=
  .setShadow s _ (fun i => Memory.wf_write _ _ _ i) fun i => by rw [Memory.read_write _ _ _ _ i, if_neg h.symm]

theorem windowAt_ne (w : Fin 16) : windowAt w ≠ 0 := by unfold windowAt; omega
theorem filterAt_ne (i : Fin 8) : filterAt i ≠ 0 := by unfold filterAt; omega

/-- Two bytes of the unlocked words are written. -/
theorem State.Keeps.takeWord (s : State) (o : Nat) (v : BitVec 16) (h : o ≠ 0) :
    s.Keeps (s.takeShadow (Memory.writeAll s.shadow (wordCells o v))) := by
  refine .takeShadow _ _ (fun i => Memory.wf_writeAll _ _ i) fun i => Memory.read_writeAll_other _ _ _ i ?_
  intro c hc
  simp only [wordCells, List.mem_cons, List.not_mem_nil, or_false] at hc
  rcases hc with rfl | rfl
  · exact h
  · exact Nat.succ_ne_zero o

/-- Any byte of the shadow written keeps all of the invariant but what it says of PASS. -/
theorem State.Inv.writeShadow {s : State} (i : s.Inv) (o : Nat) (b : Byte) :
    ({ s.writeShadow o b with part := .run } : State).Inv :=
  { i with shadow := Memory.wf_write _ _ _ i.shadow, pass := fun h => absurd h run_ne_pass }

theorem State.Keeps.globalOn (s : State) : s.Keeps s.globalOn := by
  unfold State.globalOn
  dsimp only
  have f := (s.writeShadow globalAt 1).enterStarting_fixed
  refine .iff_ (fun _ => .of (fun i => (i.writeShadow _ _).enterStarting) f.1 f.2.1 f.2.2.1 f.2.2.2.1 f.2.2.2.2) fun h => ?_
  exact .of (fun i => { i with shadow := (i.writeShadow _ _).shadow, pass := fun p => absurd p h }) rfl

theorem State.Keeps.globalOff (s : State) : s.Keeps s.globalOff := by
  have e (i : s.Inv) : (s.writeShadow globalAt 0).globals.enable ≠ 1 := by
    unfold State.globals State.writeShadow
    rw [globals_enable, Memory.read_write _ _ _ _ i.shadow, if_pos (show 0 = globalAt from rfl)]
    decide
  unfold State.globalOff
  dsimp only
  refine .iff_ (fun _ => .of (fun i => (i.writeShadow _ _).enterPass (e i)) rfl (q := State.enterPass_sequence _)) fun _ => ?_
  exact .of (fun i => { i with shadow := (i.writeShadow _ _).shadow, pass := fun _ => e i }) rfl

theorem State.Keeps.windowOn (s : State) (w : Fin 16) : s.Keeps (s.windowOn w) :=
  .iff_ (fun _ => .writeShadow _ _ _ (windowAt_ne w))
    fun _ => .after (.enableWindow _ _) (.writeShadow _ _ _ (windowAt_ne w))

theorem State.Keeps.filterOn (s : State) (i : Fin 8) : s.Keeps (s.filterOn i) :=
  .iff_ (fun _ => .writeShadow _ _ _ (filterAt_ne i))
    fun _ => .after (.enableFilter _ _) (.writeShadow _ _ _ (filterAt_ne i))

/-! ### The memory path -/

theorem returnPass_length (b : List (Dir × Id)) (l : List Rec) : (returnPass b l).1.length ≤ l.length := by
  induction l generalizing b with
  | nil => simp [returnPass]
  | cons r rest ih =>
    unfold returnPass
    split
    · simpa using ih _
    · split
      · simpa using ih _
      · exact (ih _).trans (by simp)

/-- The path changed with no more records and no more held writes. -/
theorem State.Keeps.setPath (s : State) (p : Path) (h : p.table.length ≤ s.path.table.length)
    (g : (p.held.map (·.seq)).Sublist (s.path.held.map (·.seq)) := by exact .refl _)
    (n : p.arrivals = s.path.arrivals := by exact rfl) : s.Keeps { s with path := p } :=
  .of (fun i =>
    let b := State.Inv.ofHeld (t := { s with path := p }) i g (congrArg (·.1) n)
    { i with table := h.trans i.table, held := b.1, numbers := b.2 }) rfl h g n

theorem State.Keeps.returnResponses (s : State) : s.Keeps s.returnResponses :=
  .setPath s _ (returnPass_length _ _)

theorem State.Keeps.joinForwarding (s : State) (a b : Nat) : s.Keeps (s.joinForwarding a b) := .same rfl rfl

theorem State.Keeps.takeInFlight (s : State) (n : Nat) (c : Bool) : s.Keeps (s.takeInFlight n c) :=
  .iff_ (fun _ => .same rfl rfl) fun _ => .refl s

theorem State.Keeps.passCapture (s : State) (w : Option (Fin 16)) (x : PresentedWrite) : s.Keeps (s.passCapture w x) := by
  unfold State.passCapture
  split
  · exact .refl s
  · exact .after (.markChanges _ _) (.captureWrite _ _ _ _ _)

/-! ### Arrivals -/

/-- A record joins a table with a free place. -/
theorem State.Carries.joinTable (s : State) (r : Rec) (h : s.path.table.length < Config.tablePlaces) :
    s.Carries (s.joinTable r) :=
  ⟨⟨fun i =>
    { i with
      table := by simpa [State.joinTable] using h
      numbers := ⟨i.numbers.1, fun n hn => Nat.lt_succ_of_lt (i.numbers.2 n hn)⟩ }, rfl⟩, fun _ => rfl⟩

/-- A record joins a table with a free place, and its write is held where fewer than 16 are. -/
theorem State.Carries.joinHold (s : State) (r : Rec) (x : HeldWrite) (h : s.path.table.length < Config.tablePlaces)
    (g : s.path.held.length < Config.heldPlaces) (e : x.seq = s.path.nextSeq) : s.Carries ((s.joinTable r).hold x) := by
  refine ⟨⟨fun i => ?_, rfl⟩, fun _ => rfl⟩
  have hm : ((s.joinTable r).hold x).path.held.map (·.seq) = s.path.held.map (·.seq) ++ [s.path.nextSeq] := by
    simp [State.hold, State.joinTable, e]
  refine { i with
    table := by simpa [State.hold, State.joinTable] using h
    held := by simpa [State.hold, State.joinTable] using g
    numbers := ?_ }
  rw [hm]
  refine ⟨List.pairwise_append.mpr ⟨i.numbers.1, List.pairwise_singleton _ _, fun a ha b hb => ?_⟩, fun a ha => ?_⟩
  · rw [List.mem_singleton] at hb
    exact hb ▸ i.numbers.2 a ha
  · rcases List.mem_append.mp ha with ha | ha
    · exact Nat.lt_succ_of_lt (i.numbers.2 a ha)
    · rw [List.mem_singleton] at ha
      exact ha ▸ Nat.lt_succ_self _

theorem State.Carries.arriveRead (s : State) (r : PresentedRead) (h : s.path.table.length < Config.tablePlaces) :
    s.Carries (s.arriveRead r) := by
  unfold State.arriveRead
  dsimp only
  split
  · exact .after (.joinTable _ _ (lt_of_le_of_lt (State.Keeps.refuse ..).table h)) (State.Keeps.refuse ..).toCarries
  · exact .after (State.Keeps.joinForwarding ..).toCarries (.joinTable _ _ h)

/-- A write's record joins, and the write is held or joins the forwarding queue. -/
theorem State.Carries.placeWrite (s : State) (c : Prop) [Decidable c] (a b : Rec) (x : HeldWrite) (n : Nat)
    (h : s.path.table.length < Config.tablePlaces) (g : s.path.held.length < Config.heldPlaces) (e : x.seq = s.path.nextSeq) :
    s.Carries (if c then (s.joinTable a).hold x else (s.joinTable b).joinForwarding n 1) :=
  .iff_ (fun _ => .joinHold s a x h g e)
    fun _ => .after (State.Keeps.joinForwarding ..).toCarries (.joinTable _ _ h)

theorem State.Carries.acceptWrite (s : State) (x : PresentedWrite) (h : s.path.table.length < Config.tablePlaces)
    (g : s.path.held.length < Config.heldPlaces) : s.Carries (s.acceptWrite x) := by
  have k (c b : Bool) (w : Option (Fin 16)) (n : Nat) :
      s.Keeps ((if c then s.passCapture w x else s).takeInFlight n b) :=
    .after (.takeInFlight _ _ _) (.iff_ (fun _ => .passCapture _ _ _) fun _ => .refl s)
  unfold State.acceptWrite
  dsimp only
  have k0 := k (s.captures (s.lookup x.addr.toNat) x.id) (s.inControlPage x.addr) (s.lookup x.addr.toNat) s.path.nextSeq
  revert k0
  generalize (if s.captures (s.lookup x.addr.toNat) x.id then s.passCapture (s.lookup x.addr.toNat) x
    else s).takeInFlight s.path.nextSeq (s.inControlPage x.addr) = s1
  intro k0
  exact .after (.placeWrite s1 _ _ _ _ _ (lt_of_le_of_lt k0.table h) (lt_of_le_of_lt k0.heldLength g) k0.next.symm) k0.toCarries

theorem State.Carries.arriveWrite (s : State) (x : PresentedWrite) (h : s.path.table.length < Config.tablePlaces)
    (g : s.path.held.length < Config.heldPlaces) : s.Carries (s.arriveWrite x) := by
  unfold State.arriveWrite
  split
  · exact .after (.joinTable _ _ (lt_of_le_of_lt (State.Keeps.refuse ..).table h)) (State.Keeps.refuse ..).toCarries
  · exact .acceptWrite _ _ h g

theorem State.Carries.takeRead (s : State) (h : s.readReady = true) : s.Carries s.takeRead := by
  have hf : s.path.table.length < Config.tablePlaces := by
    simp only [State.readReady, State.tableFree, Bool.and_eq_true, decide_eq_true_eq] at h
    exact h.2
  unfold State.takeRead
  split
  · exact .refl s
  · exact .after (State.Keeps.returnResponses _).toCarries
      (.after (.arriveRead _ _ hf) (.present _ _ _))

theorem State.Carries.takeWrite (s : State) (h : s.writeReady = true) : s.Carries s.takeWrite := by
  unfold State.writeReady at h
  unfold State.takeWrite
  split
  · exact .refl s
  · next x rest e =>
    rw [e] at h
    simp only [State.tableFree, Bool.and_eq_true, decide_eq_true_eq] at h
    exact .after (State.Keeps.returnResponses _).toCarries
      (.after (.arriveWrite _ _ h.1.1 h.1.2) (.present _ _ _))

theorem State.choose_path (s : State) (n : Nat) : (s.choose n).2.path = s.path := by
  unfold State.choose
  split <;> rfl

theorem State.choose_ctlStrap (s : State) (n : Nat) : (s.choose n).2.ctlStrap = s.ctlStrap := by
  unfold State.choose
  split <;> rfl

/-- A free choice changes nothing that the taking tests read. -/
theorem State.choose_ready (s : State) (n : Nat) :
    (s.choose n).2.readReady = s.readReady ∧ (s.choose n).2.writeReady = s.writeReady := by
  have hp := State.choose_path s n
  have hc := State.choose_ctlStrap s n
  constructor
  · simp only [State.readReady, State.tableFree, hp]
  · simp only [State.writeReady, State.tableFree, State.inControlPage, State.ctlBase, hp, hc]
    rfl

theorem State.Carries.takeReady (n : Nat) (s : State) : s.Carries (State.takeReady n s) := by
  induction n generalizing s with
  | zero => exact .refl s
  | succ n ih =>
    unfold State.takeReady
    split
    · next h =>
      rw [Bool.and_eq_true] at h
      obtain ⟨e1, e2⟩ := State.choose_ready s 2
      dsimp only
      refine .after (ih _) (.after (.iff_ (fun _ => .takeRead _ (e1.trans h.1)) fun _ => .takeWrite _ (e2.trans h.2))
        (State.Keeps.choose s 2).toCarries)
    · split
      · next h => exact .after (ih _) (.takeRead _ h)
      · split
        · next h => exact .after (ih _) (.takeWrite _ h)
        · exact .refl s

theorem State.Carries.takePresented (s : State) : s.Carries s.takePresented := .takeReady _ _

/-! ### Taking what is presented, one transaction at a time (R2) -/

/-- What is presented at s is presented at t. -/
structure State.Presents (s t : State) : Prop where
  reads : t.path.presentedReads = s.path.presentedReads
  writes : t.path.presentedWrites = s.path.presentedWrites

theorem State.Presents.after {a b c : State} (g : b.Presents c) (h : a.Presents b) : a.Presents c :=
  ⟨g.reads.trans h.reads, g.writes.trans h.writes⟩

theorem State.Keeps.presents {s t : State} (h : s.Keeps t) : s.Presents t := ⟨h.presented.1, h.presented.2⟩

theorem State.Presents.joinTable (s : State) (r : Rec) : s.Presents (s.joinTable r) := ⟨rfl, rfl⟩

/-- A read's arrival leaves what is presented behind it. -/
theorem State.Presents.arriveRead (s : State) (r : PresentedRead) : s.Presents (s.arriveRead r) := by
  unfold State.arriveRead
  dsimp only
  split
  · exact .after (.joinTable _ _) (State.Keeps.refuse ..).presents
  · exact .after (State.Keeps.joinForwarding ..).presents (.joinTable _ _)

theorem State.Presents.placeWrite (s : State) (c : Prop) [Decidable c] (a b : Rec) (x : HeldWrite) (n : Nat) :
    s.Presents (if c then (s.joinTable a).hold x else (s.joinTable b).joinForwarding n 1) := by
  split <;> exact ⟨rfl, rfl⟩

theorem State.Presents.acceptWrite (s : State) (x : PresentedWrite) : s.Presents (s.acceptWrite x) := by
  have k (c b : Bool) (w : Option (Fin 16)) (n : Nat) :
      s.Presents ((if c then s.passCapture w x else s).takeInFlight n b) :=
    (State.Keeps.after (.takeInFlight _ _ _) (.iff_ (fun _ => .passCapture _ _ _) fun _ => .refl s)).presents
  unfold State.acceptWrite
  dsimp only
  exact .after (.placeWrite _ _ _ _ _ _) (k _ _ _ _)

/-- A write's arrival leaves what is presented behind it. -/
theorem State.Presents.arriveWrite (s : State) (x : PresentedWrite) : s.Presents (s.arriveWrite x) := by
  unfold State.arriveWrite
  split
  · exact .after (.joinTable _ _) (State.Keeps.refuse ..).presents
  · exact .acceptWrite _ _

/-- The number of transactions presented. -/
def State.presentedCount (s : State) : Nat := s.path.presentedReads.length + s.path.presentedWrites.length

theorem State.takeRead_count (s : State) (h : s.readReady = true) : s.presentedCount = s.takeRead.presentedCount + 1 := by
  unfold State.takeRead
  split
  · next e => simp [State.readReady, e] at h
  · next r rest e =>
    have p := State.Presents.arriveRead { s with path := { s.path with presentedReads := rest } } r
    simp only [State.presentedCount, State.returnResponses, p.reads, p.writes, e, List.length_cons]
    omega

theorem State.takeWrite_count (s : State) (h : s.writeReady = true) : s.presentedCount = s.takeWrite.presentedCount + 1 := by
  unfold State.takeWrite
  split
  · next e => simp [State.writeReady, e] at h
  · next x rest e =>
    have p := State.Presents.arriveWrite { s with path := { s.path with presentedWrites := rest } } x
    simp only [State.presentedCount, State.returnResponses, p.reads, p.writes, e, List.length_cons]
    omega

theorem State.readReady_count (s : State) (h : s.readReady = true) : s.presentedCount ≠ 0 := by
  rw [s.takeRead_count h]
  omega

theorem State.writeReady_count (s : State) (h : s.writeReady = true) : s.presentedCount ≠ 0 := by
  rw [s.takeWrite_count h]
  omega

/-- With neither direction ready nothing is taken. -/
theorem State.takePresented_neither (s : State) (hr : s.readReady = false) (hw : s.writeReady = false) :
    s.takePresented = s := by
  unfold State.takePresented
  cases s.path.presentedReads.length + s.path.presentedWrites.length with
  | zero => rfl
  | succ n => simp [State.takeReady, hr, hw]

/-- With one direction ready its first transaction is taken, and the taking goes on. -/
theorem State.takePresented_read (s : State) (hr : s.readReady = true) (hw : s.writeReady = false) :
    s.takePresented = s.takeRead.takePresented := by
  show State.takeReady s.presentedCount s = State.takeReady s.takeRead.presentedCount s.takeRead
  rw [s.takeRead_count hr]
  simp [State.takeReady, hr, hw]

theorem State.takePresented_write (s : State) (hr : s.readReady = false) (hw : s.writeReady = true) :
    s.takePresented = s.takeWrite.takePresented := by
  show State.takeReady s.presentedCount s = State.takeReady s.takeWrite.presentedCount s.takeWrite
  rw [s.takeWrite_count hw]
  simp [State.takeReady, hr, hw]

/-- With both ready a free choice names the one that goes first (log 9). -/
theorem State.takePresented_both (s : State) (hr : s.readReady = true) (hw : s.writeReady = true) :
    s.takePresented =
      (if (s.choose 2).1 = 0 then (s.choose 2).2.takeRead else (s.choose 2).2.takeWrite).takePresented := by
  obtain ⟨e1, e2⟩ := s.choose_ready 2
  have c : s.presentedCount = (s.choose 2).2.presentedCount := by simp only [State.presentedCount, State.choose_path]
  have n1 := (s.choose 2).2.takeRead_count (e1.trans hr)
  have n2 := (s.choose 2).2.takeWrite_count (e2.trans hw)
  show State.takeReady s.presentedCount s = _
  rw [c]
  split
  · next h =>
    rw [n1]
    unfold State.takeReady
    simp only [hr, hw, Bool.and_self, if_true, h]
    rfl
  · next h =>
    rw [n2]
    unfold State.takeReady
    simp only [hr, hw, Bool.and_self, if_true, h, if_false]
    rfl

theorem State.Carries.presentRead (s : State) (r : PresentedRead) : s.Carries (s.presentRead r) :=
  .after (.takePresented _) (.present _ _ _)

theorem State.Carries.presentWrite (s : State) (x : PresentedWrite) : s.Carries (s.presentWrite x) :=
  .after (.takePresented _) (.present _ _ _)

/-! ### Grants and responses -/

theorem State.Keeps.grantForwarded (s : State) : s.Keeps s.grantForwarded := by
  unfold State.grantForwarded
  split
  · exact .refl s
  · split
    · exact .same rfl rfl
    · exact .trans (.modRec _ _ _) (.setPath _ _ (le_refl _))

theorem State.Keeps.grantOwn (s : State) : s.Keeps s.grantOwn := by
  unfold State.grantOwn
  split
  · exact .refl s
  · next t rest e =>
    refine .of (fun i => { i with own := ?_ }) rfl
    have := i.own
    rw [e] at this
    exact (Nat.le_succ _).trans this

theorem State.Keeps.setWaitCount (s : State) (n : Nat) (h : n ≤ Config.ownWaitLimit) : s.Keeps (s.setWaitCount n) :=
  .of (fun i => { i with wait := h }) rfl

theorem State.Keeps.arbitrate (s : State) : s.Keeps s.arbitrate := by
  unfold State.arbitrate
  split
  · split
    · exact .refl s
    · exact .after (.setWaitCount _ _ (Nat.zero_le _)) (.grantOwn _)
  · split
    · exact .after (.setWaitCount _ _ (Nat.zero_le _)) (.grantForwarded _)
    · split
      · next h => exact .after (.setWaitCount _ _ h) (.grantForwarded _)
      · exact .after (.setWaitCount _ _ (Nat.zero_le _)) (.grantOwn _)

theorem State.Keeps.reportCapture (s : State) (r : Rec) (a : Resp) : s.Keeps (s.reportCapture r a) := by
  unfold State.reportCapture
  split
  · exact .captureError _ _
  · exact .refl s
  · exact .refl s

theorem State.Keeps.controlAnswered (s : State) (r : Rec) (a : Resp) : s.Keeps (s.controlAnswered r a) := by
  unfold State.controlAnswered
  split
  · cases a
    · exact .after (.applyControl _ _) (.setPath _ _ (le_refl _))
    · exact .setPath _ _ (le_refl _)
  · exact .refl s

theorem State.Keeps.responseKnown (s : State) (r : Rec) (a : Resp × List Byte) : s.Keeps (s.responseKnown r a) :=
  .after (.controlAnswered _ _ _) (.after (.reportCapture _ _ _) (.modRec _ _ _))

/-- A piece leaves the issued list with its record answered. -/
theorem State.Keeps.answerIssued (s : State) (l : List (Nat × Nat)) (n : Nat) (f : Rec → Rec) :
    s.Keeps ({ s with path := { s.path with issued := l } }.modRec n f) :=
  .after (.modRec _ _ _) (.same rfl rfl)

theorem State.Carries.forwardedAnswer (s : State) (d : Dir) (i : Id) (a : Resp) (x : List Byte) :
    s.Carries (s.forwardedAnswer d i a x) := by
  unfold State.forwardedAnswer
  split
  · exact .refl s
  · split
    · exact .refl s
    · refine .iff_ (fun _ => ?_) fun _ => .refl s
      refine .after (.takePresented _) (.after (State.Keeps.returnResponses _).toCarries ?_)
      dsimp only
      split
      · exact (State.Keeps.answerIssued ..).toCarries
      · exact .after (State.Keeps.responseKnown ..).toCarries (State.Keeps.answerIssued ..).toCarries

theorem State.Carries.holdLimit (s : State) (i : Id) : s.Carries (s.holdLimit i) := by
  unfold State.holdLimit
  split
  · exact .refl s
  · split
    · exact .refl s
    · dsimp only
      split
      · exact .after (.takePresented _) (State.Keeps.after (.releaseStep _) (.atTime _ _)).toCarries
      · exact .after (.takePresented _)
          (State.Keeps.after (.releaseStep _) (.after (.abortOverrun _ _ _ _) (.atTime _ _))).toCarries

/-! ### Own responses -/

theorem State.Keeps.blockAnswered (s : State) (b : Fin 22) (a : Resp) : s.Keeps (s.blockAnswered b a) := by
  refine .after (.checkRun _) ?_
  exact .iff_ (fun _ => .after (.postCauses _) (.after (.memErrOf _ _) (.setMark _ _ _)))
    fun _ => .after (.memErrOf _ _) (.setMark _ _ _)

theorem State.Keeps.statusResponse (s : State) (a : Resp) : s.Keeps (s.statusResponse a) := by
  unfold State.statusResponse
  split
  · exact .refl s
  · next h =>
    split
    · exact .refl s
    · exact .after (.blockAnswered _ _ _) (.answerWrite h)

theorem State.Keeps.zeroResponse (s : State) (a : Resp) : s.Keeps (s.zeroResponse a) := by
  unfold State.zeroResponse
  split
  · exact .refl s
  · next h => exact .after (.checkRun _) (.after (.memErrOf _ _) (.trans (.answerWrite h) (.same rfl rfl)))

theorem State.Keeps.ringResponse (s : State) (a : Resp) : s.Keeps (s.ringResponse a) := by
  unfold State.ringResponse
  split
  · exact .refl s
  · next h => exact .after (.memErrOf _ _) (.trans (.answerWrite h) (.setRing _ _ id))

theorem State.Keeps.halfResponse (s : State) (a : Resp) : s.Keeps (s.halfResponse a) := by
  unfold State.halfResponse
  split
  · exact .refl s
  · next h =>
    split
    · exact .refl s
    · exact .after (.halfAnswered _ _) (.after (.memErrOf _ _) (.answerWrite h))

theorem State.Carries.readResponse (s : State) (a : Resp) (d : List Byte) : s.Carries (s.readResponse a d) := by
  unfold State.readResponse
  split
  · exact .refl s
  · next h =>
    split
    · exact .refl s
    · split
      · exact .after (.takePresented _) (State.Keeps.after (.ringReadAnswered _ _ _ _ _) (.answerRead h)).toCarries
      · exact .refl s

theorem State.Keeps.rowResponse (s : State) (a : Resp) : s.Keeps (s.rowResponse a) := by
  unfold State.rowResponse
  split
  · exact .refl s
  · next h => exact .after (.memErrOf _ _) (.answerWrite h)

theorem State.Keeps.headerResponse (s : State) (a : Resp) : s.Keeps (s.headerResponse a) := by
  unfold State.headerResponse
  split
  · exact .refl s
  · next h =>
    split
    · exact .refl s
    · exact .after (.headerAnswered _ _) (.after (.memErrOf _ _) (.answerWrite h))

theorem State.Holds.givePlace (s : State) (w : Waiter) : s.Holds (s.givePlace w) := by
  cases w with
  | statusWriter => exact .statusGiven _
  | zeroRecords => exact (State.Keeps.queueZeros _ _ _).toHolds
  | close k => exact (State.Keeps.closeGiven _ _).toHolds
  | evidence => exact (State.Keeps.engineGiven _).toHolds

theorem State.Holds.placeGiven (s : State) : s.Holds s.placeGiven := by
  unfold State.placeGiven
  split
  · split
    · exact .refl s
    · next h => exact .after (.givePlace _ _) (State.Keeps.after (.endWait _ _) (.longestWaiter h)).toHolds
  · exact .refl s

theorem State.Carries.taking (s : State) : s.Carries s.taking :=
  .after (.takePresented _) (State.Keeps.take s).toCarries

theorem State.Carries.windowOff (s : State) (w : Fin 16) : s.Carries (s.windowOff w) :=
  .iff_ (fun _ => .after (.takePresented _) (State.Keeps.after (.writeShadow _ _ _ (windowAt_ne w)) (.disableWindow _ _)).toCarries)
    fun _ => (State.Keeps.writeShadow _ _ _ (windowAt_ne w)).toCarries

end Sys2Proof.Machine
end

