-- ==== Sys2Proof/Laws/Marks.lean ====
section
/-!
SUPPORT. What the end of an event does to the marks of a block (R179, R180): a change is noted and stays noted, a block that
is not written keeps its marks, and one that is written has its sequence count raised by one.
-/
namespace Sys2Proof.Machine

/- One proof after another: at once they ask for more threads than the memory allows. -/
set_option Elab.async false

variable (s : State)

@[simp] theorem State.pushOwn_mark (t : OwnTxn) (b : Fin 22) : (s.pushOwn t).mark b = s.mark b := by
  unfold State.pushOwn; split <;> rfl

@[simp] theorem State.beginWait_mark (w : Waiter) (b : Fin 22) : (s.beginWait w).mark b = s.mark b := by
  unfold State.beginWait; split <;> rfl

@[simp] theorem State.endWait_mark (w : Waiter) (b : Fin 22) : (s.endWait w).mark b = s.mark b := rfl

/-- The issue of a block's write changes that block's marks alone (R180). -/
theorem State.issueBlock_mark (b j : Fin 22) :
    (s.issueBlock b).mark j = if b = j then (s.mark b).atIssue else s.mark j := by
  have h : ((s.setMark b (s.mark b).atIssue)).mark j = if b = j then (s.mark b).atIssue else s.mark j :=
    State.mark_setMark s b j _
  unfold State.issueBlock
  dsimp only
  split
  · exact (State.pushOwn_mark _ _ j).trans h
  · exact (State.pushOwn_mark _ _ j).trans h

/-- After the issue a block's marks are as they were, or as its issue leaves them. -/
theorem State.issueBlocks_mark (l : List (Fin 22)) (j : Fin 22) :
    (State.issueBlocks l s).mark j = s.mark j ∨
      (s.mark j).qualifies = true ∧ (State.issueBlocks l s).mark j = (s.mark j).atIssue := by
  induction l generalizing s with
  | nil => exact .inl rfl
  | cons b rest ih =>
    unfold State.issueBlocks
    split
    · next hq =>
      split
      · have hm := State.issueBlock_mark s b j
        by_cases hb : b = j
        · subst hb
          rw [if_pos rfl] at hm
          refine .inr ⟨hq, ?_⟩
          rcases ih (s.issueBlock b) with h | ⟨h, -⟩
          · rw [h, hm]
          · rw [hm] at h; simp [BlockMarks.atIssue, BlockMarks.qualifies] at h
        · rw [if_neg hb] at hm
          rcases ih (s.issueBlock b) with h | ⟨h, g⟩
          · exact .inl (h.trans hm)
          · rw [hm] at h g; exact .inr ⟨h, g⟩
      · exact .inl (State.beginWait_mark s _ j)
    · exact ih s

/-- After the issue a block that qualifies is left exactly where the Status Writer waits, and then no place is free (R180). -/
theorem State.issueBlocks_left (l : List (Fin 22)) :
    ((∃ b ∈ l, ((State.issueBlocks l s).mark b).qualifies = true) ↔
      ∃ n, (.statusWriter, n) ∈ (State.issueBlocks l s).own.waiters) ∧
    ((∃ n, (.statusWriter, n) ∈ (State.issueBlocks l s).own.waiters) →
      Config.ownPlaces ≤ (State.issueBlocks l s).own.queue.length + (State.issueBlocks l s).own.waiters.length) := by
  induction l generalizing s with
  | nil => 
    have : ¬∃ n, (Waiter.statusWriter, n) ∈ (State.issueBlocks [] s).own.waiters := by
      rintro ⟨n, h⟩; simp [State.issueBlocks, State.endWait] at h
    exact ⟨by simp [this], fun h => absurd h this⟩
  | cons b rest ih =>
    unfold State.issueBlocks
    split
    · next hq =>
      split
      · obtain ⟨h1, h2⟩ := ih (s.issueBlock b)
        refine ⟨?_, h2⟩
        rw [← h1]
        constructor
        · rintro ⟨j, hj, h⟩
          rcases List.mem_cons.mp hj with rfl | hj
          · exfalso
            have hm := State.issueBlock_mark s j j
            rw [if_pos rfl] at hm
            rcases State.issueBlocks_mark (s.issueBlock j) rest j with e | ⟨-, e⟩ <;> rw [e] at h
            · rw [hm] at h; simp [BlockMarks.atIssue, BlockMarks.qualifies] at h
            · simp [BlockMarks.atIssue, BlockMarks.qualifies] at h
          · exact ⟨j, hj, h⟩
        · rintro ⟨j, hj, h⟩; exact ⟨j, List.mem_cons_of_mem _ hj, h⟩
      · next hp =>
        have hw : ∃ n, (Waiter.statusWriter, n) ∈ (s.beginWait .statusWriter).own.waiters := by
          unfold State.beginWait
          split
          · next h =>
            unfold State.waits at h
            obtain ⟨x, hx, e⟩ := List.any_eq_true.mp h
            exact ⟨x.2, by have : x.1 = .statusWriter := by simpa using e
                           rw [← this]; exact hx⟩
          · exact ⟨s.eventNumber, by simp⟩
        refine ⟨⟨fun _ => hw, fun _ => ⟨b, List.mem_cons_self, by simpa using hq⟩⟩, fun _ => ?_⟩
        have : Config.ownPlaces ≤ s.own.queue.length + s.own.waiters.length := by
          unfold State.placeFree at hp; simpa using hp
        unfold State.beginWait
        split
        · exact this
        · simp; omega
    · next hq =>
      obtain ⟨h1, h2⟩ := ih s
      refine ⟨?_, h2⟩
      rw [← h1]
      constructor
      · rintro ⟨j, hj, h⟩
        rcases List.mem_cons.mp hj with rfl | hj
        · rcases State.issueBlocks_mark s rest j with e | ⟨q, e⟩
          · rw [e] at h; exact absurd h hq
          · exact absurd q hq
        · exact ⟨j, hj, h⟩
      · rintro ⟨j, hj, h⟩; exact ⟨j, List.mem_cons_of_mem _ hj, h⟩

/-- A block whose count rose in the issue: its write stands in the queue, no lower block of the list is left, and block 0 carries
the causes pending (R180, R183). -/
theorem State.issueBlocks_issued (l : List (Fin 22)) (hl : l.Pairwise (· < ·)) (b : Fin 22)
    (h : ((State.issueBlocks l s).mark b).sequence ≠ (s.mark b).sequence) :
    b ∈ l ∧ (State.issueBlocks l s).mark b = (s.mark b).atIssue ∧
      s.blockWrite (b, ((s.mark b).atIssue).sequence) ∈ (State.issueBlocks l s).own.queue ∧
      (∀ j ∈ l, j < b → ((State.issueBlocks l s).mark j).qualifies = false) ∧
      (b = 0 → (State.issueBlocks l s).causes.carried = s.causes.pending) := by
  induction l generalizing s with
  | nil => exact absurd rfl h
  | cons c rest ih =>
    rw [List.pairwise_cons] at hl
    unfold State.issueBlocks at h ⊢
    split
    · next hq =>
      rw [if_pos hq] at h
      split
      · next hp =>
        rw [if_pos hp] at h
        have hset := State.Settles.issueBlock s c (State.placeFree_lt hp)
        have hset2 := State.Settles.issueBlocks rest (s.issueBlock c)
        have hbw : (s.issueBlock c).blockWrite = s.blockWrite := by
          rw [hset.same, State.blockWrite_writer]
        have hpend : (s.issueBlock c).causes.pending = s.causes.pending := by rw [hset.same]
        have hm := State.issueBlock_mark s c
        by_cases hb : c = b
        · subst hb
          have hmc := hm c; rw [if_pos rfl] at hmc
          have hmf : (State.issueBlocks rest (s.issueBlock c)).mark c = (s.mark c).atIssue := by
            rcases State.issueBlocks_mark (s.issueBlock c) rest c with e | ⟨q, -⟩
            · rw [e, hmc]
            · rw [hmc] at q; simp [BlockMarks.atIssue, BlockMarks.qualifies] at q
          obtain ⟨m, hmq, hmc'⟩ := hset2.issued
          refine ⟨List.mem_cons_self, hmf, ?_, ?_, ?_⟩
          · rw [hmq]
            apply List.mem_append_left
            have e : (s.issueBlock c).own.queue = s.own.queue ++ [s.blockWrite (c, ((s.mark c).atIssue).sequence)] := by
              have hlt := State.placeFree_lt hp
              have e (t : OwnTxn) : (s.setMark c (s.mark c).atIssue).pushOwn t =
                { s.setMark c (s.mark c).atIssue with own := { s.own with queue := s.own.queue ++ [t] } } := if_pos hlt
              unfold State.issueBlock
              dsimp only
              rw [e]
              split <;> rfl
            rw [e]; simp
          · intro j hj hlt
            rcases List.mem_cons.mp hj with rfl | hj
            · exact absurd hlt (lt_irrefl _)
            · exact absurd (hl.1 j hj) (not_lt.mpr hlt.le)
          · rintro rfl
            rw [hmc', hpend]
            split
            · rfl
            · unfold State.issueBlock; dsimp only; rw [if_pos rfl]
              unfold State.pushOwn; split <;> rfl
        · have hmb := hm b; rw [if_neg hb] at hmb
          obtain ⟨h1, h2, h3, h4, h5⟩ := ih (s.issueBlock c) hl.2 (by rw [hmb]; exact h)
          rw [hmb, hbw] at h3
          rw [hmb] at h2
          rw [hpend] at h5
          refine ⟨List.mem_cons_of_mem _ h1, h2, h3, ?_, h5⟩
          intro j hj hlt
          rcases List.mem_cons.mp hj with rfl | hj
          · have hmc := hm j; rw [if_pos rfl] at hmc
            rcases State.issueBlocks_mark (s.issueBlock j) rest j with e | ⟨q, -⟩
            · rw [e, hmc]; simp [BlockMarks.atIssue, BlockMarks.qualifies]
            · rw [hmc] at q; simp [BlockMarks.atIssue, BlockMarks.qualifies] at q
          · exact h4 j hj hlt
      · next hp =>
        rw [if_neg hp] at h
        exact absurd (by rw [State.beginWait_mark]) h
    · next hq =>
      rw [if_neg hq] at h
      obtain ⟨h1, h2, h3, h4, h5⟩ := ih s hl.2 h
      refine ⟨List.mem_cons_of_mem _ h1, h2, h3, ?_, h5⟩
      intro j hj hlt
      rcases List.mem_cons.mp hj with rfl | hj
      · rcases State.issueBlocks_mark s rest j with e | ⟨q, e⟩
        · rw [e]; simpa using hq
        · exact absurd q hq
      · exact h4 j hj hlt

/-- The marks that the end of an event sets before the issue (R179). -/
theorem State.markChanges_mark (new old : State) (b : Fin 22) :
    (new.markChanges old).mark b =
      { new.mark b with
        dirty := (new.mark b).dirty || blockChanged old new b
        periodic := (new.mark b).periodic || travelChanged old new b } := by
  simp [State.markChanges, State.mark]

/-- A block dirty when the event's operation ends, or with a published field changed by it, is noted when the event does, where
the operation issued no block (R179, R180). -/
theorem State.noted_settled (new old : State) (b : Fin 22) (q : (new.mark b).sequence = (s.mark b).sequence)
    (h : (new.mark b).dirty = true ∨ blockChanged old new b = true) : s.noted (new.settled old) b := by
  unfold State.settled State.noted
  have hm := State.markChanges_mark new old b
  rcases State.issueBlocks_mark (new.markChanges old) (List.finRange 22) b with e | ⟨-, e⟩
  · rw [e, hm]
    rcases h with h | h <;> exact .inl (by simp [h])
  · rw [e, hm]
    exact .inr ⟨rfl, congrArg (· + 1) q⟩

/-- A block that the event's operation issued is noted when the event ends. -/
theorem State.noted_settled_issued (new old : State) (b : Fin 22) (o : (new.mark b).outstanding = true)
    (q : (new.mark b).sequence = (s.mark b).sequence + 1) : s.noted (new.settled old) b := by
  unfold State.settled State.noted
  have hm := State.markChanges_mark new old b
  rcases State.issueBlocks_mark (new.markChanges old) (List.finRange 22) b with e | ⟨g, -⟩
  · rw [e, hm]
    exact .inr ⟨o, q⟩
  · rw [hm] at g
    simp [BlockMarks.qualifies, o] at g

/-- The same for an event. -/
theorem State.noted_event (f : State → State) (b : Fin 22) (hl : s.resetLow = false)
    (q : ((f s.opened).mark b).sequence = (s.mark b).sequence)
    (h : ((f s.opened).mark b).dirty = true ∨ blockChanged s.opened (f s.opened) b = true) : s.noted (s.event f) b := by
  unfold State.event
  rw [hl]
  exact State.noted_settled s _ _ b q h

/-- A block that is outstanding after the event, and was not when its operation ended, was written by the event's end. -/
theorem State.settled_sequence (new old : State) (b : Fin 22) (h : (new.mark b).outstanding = false)
    (g : ((new.settled old).mark b).outstanding = true) :
    ((new.settled old).mark b).sequence = (new.mark b).sequence + 1 := by
  unfold State.settled at *
  have hm := State.markChanges_mark new old b
  rcases State.issueBlocks_mark (new.markChanges old) (List.finRange 22) b with e | ⟨-, e⟩
  · rw [e, hm] at g; rw [h] at g; exact absurd g (by decide)
  · rw [e, hm]; rfl

/-- The end of an event leaves the first-write mark of every block. -/
theorem State.settled_firstWrite (new old : State) (b : Fin 22) :
    ((new.settled old).mark b).firstWrite = (new.mark b).firstWrite := by
  unfold State.settled
  have hm := State.markChanges_mark new old b
  rcases State.issueBlocks_mark (new.markChanges old) (List.finRange 22) b with e | ⟨-, e⟩ <;> simp [e, hm, BlockMarks.atIssue]

@[simp] theorem State.markDirty_mark (b j : Fin 22) :
    (s.markDirty b).mark j = if b = j then { s.mark b with dirty := true } else s.mark j := State.mark_setMark s b j _

/-- Marking one block dirty keeps every block dirty that was. -/
theorem State.dirty_markDirty (b j : Fin 22) (h : (s.mark j).dirty = true ∨ b = j) :
    ((s.markDirty b).mark j).dirty = true := by
  rw [State.markDirty_mark]
  split
  · rfl
  · next hb => exact h.resolve_right hb

@[simp] theorem State.mapMarks_mark (f : BlockMarks → BlockMarks) (b : Fin 22) :
    (s.mapMarks f).mark b = f (s.mark b) := by
  simp [State.mapMarks, State.mark]

end Sys2Proof.Machine
end

