-- ==== Sys2Proof/Laws/Events.lean ====
section
/-!
SUPPORT. What every command but the two resets is: one event of an operation that keeps the invariant and leaves the straps,
RESET_N and the commands waiting alone. Claims about every step, or every command, cite this and unfold no meaning.
-/
namespace Sys2Proof.Machine

/- One proof after another: at once they ask for more threads than the memory allows. -/
set_option Elab.async false

/-- The command is one event, of an operation that holds what State.Holds says, and that issues no block of its own unless it is
the giving of a place. -/
def IsEvent (c : Instr) (s t : State) : Prop :=
  ∃ f : State → State, t = s.event f ∧ (∀ u : State, u.Holds (f u)) ∧
    (c ≠ .ownQueuePlaceGiven → ∀ u : State, u.Carries (f u))

theorem IsEvent.of (c : Instr) (s : State) (f : State → State) (h : ∀ u : State, u.Carries (f u)) :
    IsEvent c s (s.event f) := ⟨f, rfl, fun u => (h u).toHolds, fun _ => h⟩

theorem exec_event (c : Instr) (s t : State) (h : exec c s = .next t) (hc : c ≠ .resetAssert)
    (hr : ∀ a b, c ≠ .resetRelease a b) : IsEvent c s t := by
  cases c <;> simp only [exec] at h
  case resetAssert => exact absurd rfl hc
  case resetRelease a b => exact absurd rfl (hr a b)
  case systemReadArrival a b c =>
    unfold execSystemReadArrival at h; split at h <;> cases h
    exact .of _ _ _ fun t => .presentRead t _
  case systemWriteArrival a b c d =>
    unfold execSystemWriteArrival at h; split at h <;> cases h
    exact .of _ _ _ fun t => .presentWrite t _
  case controlPageSettingsWrite a b c =>
    unfold execControlPageSettingsWrite at h; split at h <;> cases h
    exact .of _ _ _ fun t => .control _ _ _ _ fun u => .after (.takePresented _) (State.Keeps.applyControl _ _).toCarries
  all_goals (cases h)
  case grant => exact .of _ _ _ fun t => (State.Keeps.arbitrate t).toCarries
  case ownQueuePlaceGiven => exact ⟨State.placeGiven, rfl, State.Holds.placeGiven, fun h => absurd rfl h⟩
  case forwardedResponse => exact .of _ _ _ fun t => .forwardedAnswer t _ _ _ _
  case holdLimitExpiry => exact .of _ _ _ fun t => .holdLimit t _
  case encoderPulse => exact .of _ _ _ fun t => (State.Keeps.after (.encoderPulse _ _) (.atTime _ _)).toCarries
  case cutLineEdge => exact .of _ _ _ fun t => (State.Keeps.cutLine t _).toCarries
  case holdTimerExpiry => exact .of _ _ _ fun t => (State.Keeps.holdExpiry t _).toCarries
  case oscillationPulse => exact .of _ _ _ fun t => (State.Keeps.oscillation t _).toCarries
  case viewLevelEdge => exact .of _ _ _ fun t => (State.Keeps.viewEdge t _ _).toCarries
  case alertTimerExpiry => exact .of _ _ _ fun t => (State.Keeps.alertExpiry t _).toCarries
  case statusPeriodExpiry => exact .of _ _ _ fun t => (State.Keeps.periodExpiry t).toCarries
  case taking => exact .of _ _ _ fun t => .taking t
  case statusWriteResponse => exact .of _ _ _ fun t => (State.Keeps.statusResponse t _).toCarries
  case zeroRecordWriteResponse => exact .of _ _ _ fun t => (State.Keeps.zeroResponse t _).toCarries
  case ringWriteResponse => exact .of _ _ _ fun t => (State.Keeps.ringResponse t _).toCarries
  case billetRecordWriteResponse => exact .of _ _ _ fun t => (State.Keeps.halfResponse t _).toCarries
  case ringReadResponse => exact .of _ _ _ fun t => .readResponse t _ _
  case tileRowWriteResponse => exact .of _ _ _ fun t => (State.Keeps.rowResponse t _).toCarries
  case tileHeaderResponse => exact .of _ _ _ fun t => (State.Keeps.headerResponse t _).toCarries
  case globalEnableOn => exact .of _ _ _ fun t => .control _ _ _ _ fun u => (State.Keeps.globalOn u).toCarries
  case globalEnableOff => exact .of _ _ _ fun t => .control _ _ _ _ fun u => (State.Keeps.globalOff u).toCarries
  case windowEnable => exact .of _ _ _ fun t => .control _ _ _ _ fun u => (State.Keeps.windowOn u _).toCarries
  case windowDisable => exact .of _ _ _ fun t => .control _ _ _ _ fun u => .windowOff u _
  case filterEntryEnable => exact .of _ _ _ fun t => .control _ _ _ _ fun u => (State.Keeps.filterOn u _).toCarries
  case filterEntryDisable =>
    exact .of _ _ _ fun t => .control _ _ _ _ fun u => (State.Keeps.writeShadow u _ _ (filterAt_ne _)).toCarries
  case causeEnableMaskWrite =>
    exact .of _ _ _ fun t => .control _ _ _ _ fun u => (State.Keeps.takeWord u maskAt _ (by decide)).toCarries
  case ringGetIndexWrite =>
    exact .of _ _ _ fun t => .control _ _ _ _ fun u => (State.Keeps.takeWord u getAt _ (by decide)).toCarries
  case strandStart =>
    exact .of _ _ _ fun t => .control _ _ _ _ fun u => (State.Keeps.onStrandArg _ _ _ fun t k => .startStrand t k).toCarries
  case strandStop =>
    exact .of _ _ _ fun t => .control _ _ _ _ fun u => (State.Keeps.onStrandArg _ _ _ fun t k => .stopStrand t k).toCarries
  case cutNow =>
    exact .of _ _ _ fun t => .control _ _ _ _ fun u => (State.Keeps.onStrandArg _ _ _ fun t k => .cutEvent t k).toCarries
  case headRestart =>
    exact .of _ _ _ fun t => .control _ _ _ _ fun u => (State.Keeps.onChannelArg _ _ _ fun t k => .restartHead t k).toCarries
  case releaseTiles => exact .of _ _ _ fun t => .control _ _ _ _ fun u => (State.Keeps.releaseTiles _ _).toCarries
  case ackCauses => exact .of _ _ _ fun t => .control _ _ _ _ fun u => (State.Keeps.acknowledge _ _).toCarries
  case ackView => exact .of _ _ _ fun t => .control _ _ _ _ fun u => (State.Keeps.ackView _ _).toCarries

end Sys2Proof.Machine
end

