-- ==== Sys2Proof/Laws/Formats.lean ====
section
/-!
SUPPORT. What the bytes of a record are, said once: the lengths of its parts, and a field read back from its offset. Claims about
the layouts cite these and unfold no list of bytes; a record's own definition is opened by `unfold` (simp's equation of it is slow).
-/
namespace Sys2Proof.Machine

@[simp] theorem leBytes_length (n v : Nat) : (leBytes n v).length = n := by
  induction n generalizing v with
  | zero => rfl
  | succ n ih => exact congrArg (· + 1) (ih _)

@[simp] theorem zeroBytes_length (n : Nat) : (zeroBytes n).length = n := List.length_replicate ..

/-- Reserved bytes are the bytes of the number 0. -/
theorem zeroBytes_eq (n : Nat) : zeroBytes n = leBytes n 0 := by
  induction n with
  | zero => rfl
  | succ n ih =>
    rw [leBytes, Nat.zero_div, ← ih]
    rfl

/-- Byte i of a number's bytes (R184). -/
theorem leBytes_getElem? (n v i : Nat) (h : i < n) : (leBytes n v)[i]? = some (BitVec.ofNat 8 (v / 256 ^ i)) := by
  induction n generalizing v i with
  | zero => exact absurd h (Nat.not_lt_zero _)
  | succ n ih =>
    cases i with
    | zero => simp [leBytes]
    | succ i => simp [leBytes, ih (v / 256) i (by omega), Nat.div_div_eq_div_mul, Nat.pow_succ, Nat.mul_comm]

/-- The bytes of a record given as its fields: offset, size and value of each, in order. -/
def fieldBytes (l : List (Nat × Nat × Nat)) : List Byte := l.flatMap fun x => leBytes x.2.1 x.2.2

/-- The fields lie one behind another from an offset on. -/
def fieldsFrom (start : Nat) : List (Nat × Nat × Nat) → Bool
  | [] => true
  | x :: rest => x.1 == start && fieldsFrom (start + x.2.1) rest

theorem le_of_fieldsFrom {l : List (Nat × Nat × Nat)} {start : Nat} (h : fieldsFrom start l = true) :
    ∀ x ∈ l, start ≤ x.1 := by
  induction l generalizing start with
  | nil => exact nofun
  | cons y rest ih =>
    simp only [fieldsFrom, Bool.and_eq_true, beq_iff_eq] at h
    intro x hx
    rcases List.mem_cons.mp hx with rfl | hx
    · omega
    · have := ih h.2 x hx
      omega

/-- A record whose first bytes are given, and its fields behind them, has each field at its offset. -/
theorem field_at (first : List Byte) (l : List (Nat × Nat × Nat)) (h : fieldsFrom first.length l = true) :
    ∀ x ∈ l, ((first ++ fieldBytes l).drop x.1).take x.2.1 = leBytes x.2.1 x.2.2 := by
  have g (start : Nat) (l : List (Nat × Nat × Nat)) (h : fieldsFrom start l = true) :
      ∀ x ∈ l, ((fieldBytes l).drop (x.1 - start)).take x.2.1 = leBytes x.2.1 x.2.2 := by
    induction l generalizing start with
    | nil => exact nofun
    | cons y rest ih =>
      simp only [fieldsFrom, Bool.and_eq_true, beq_iff_eq] at h
      intro x hx
      rw [fieldBytes, List.flatMap_cons, ← fieldBytes]
      rcases List.mem_cons.mp hx with rfl | hx
      · rw [h.1, Nat.sub_self, List.drop_zero, List.take_left' (leBytes_length _ _)]
      · have hle := le_of_fieldsFrom h.2 x hx
        rw [List.drop_append, leBytes_length, List.drop_eq_nil_of_le (by rw [leBytes_length]; omega), List.nil_append,
          show x.1 - start - y.2.1 = x.1 - (start + y.2.1) by omega]
        exact ih _ h.2 x hx
  intro x hx
  have := le_of_fieldsFrom h x hx
  rw [List.drop_append, List.drop_eq_nil_of_le this, List.nil_append]
  exact g _ l h x hx

end Sys2Proof.Machine
end

