-- ==== Sys2Proof/Laws/Release.lean ====
section
/-!
SUPPORT. What a release step does, said once (R13, R14): which held writes are front writes, and what releasing them leaves. Claims
about an event that ends a protection cite State.releaseStep_released and unfold no release.
-/
namespace Sys2Proof.Machine

/-- The front writes, as the list says them: h has no write of its ID before it (R12). -/
theorem mem_frontsFrom (seen : List Id) (l : List HeldWrite) (h : HeldWrite) :
    h ∈ frontsFrom seen l ↔
      h.id ∉ seen ∧ ∃ before behind, l = before ++ h :: behind ∧ ∀ x ∈ before, x.id ≠ h.id := by
  induction l generalizing seen with
  | nil => simp [frontsFrom]
  | cons y rest ih =>
    unfold frontsFrom
    split
    · next hs =>
      rw [ih]
      rw [List.contains_iff_mem] at hs
      constructor
      · rintro ⟨hn, b, c, rfl, hb⟩
        refine ⟨hn, y :: b, c, rfl, ?_⟩
        intro x hx
        rcases List.mem_cons.mp hx with rfl | hx
        · exact fun e => hn (e ▸ hs)
        · exact hb x hx
      · rintro ⟨hn, b, c, e, hb⟩
        cases b with
        | nil => cases e; exact absurd hs hn
        | cons z b => cases e; exact ⟨hn, b, c, rfl, fun x hx => hb x (List.mem_cons_of_mem _ hx)⟩
    · next hs =>
      rw [List.contains_iff_mem] at hs
      rw [List.mem_cons, ih]
      constructor
      · rintro (rfl | ⟨hn, b, c, rfl, hb⟩)
        · exact ⟨hs, [], rest, rfl, nofun⟩
        · refine ⟨fun m => hn (List.mem_cons_of_mem _ m), y :: b, c, rfl, ?_⟩
          intro x hx
          rcases List.mem_cons.mp hx with rfl | hx
          · exact fun e => hn (e ▸ List.mem_cons_self)
          · exact hb x hx
      · rintro ⟨hn, b, c, e, hb⟩
        cases b with
        | nil => cases e; exact .inl rfl
        | cons z b =>
          cases e
          refine .inr ⟨?_, b, c, rfl, fun x hx => hb x (List.mem_cons_of_mem _ hx)⟩
          intro m
          rcases List.mem_cons.mp m with m | m
          · exact hb _ List.mem_cons_self m.symm
          · exact hn m

/-- What a number of releases leaves (R13). -/
structure State.Released (s t : State) (l : List HeldWrite) : Prop where
  nodup : (l.map (·.seq)).Nodup
  from_ : ∀ h ∈ l, h ∈ s.path.held ∧ s.heldMeets h = false
  order : ∀ i : Id, (l.filter fun h => h.id == i) ++ ((s.path.held.filter fun h => !l.contains h).filter fun h => h.id == i) =
        s.path.held.filter fun h => h.id == i
  state : t = { s with
        choiceNumber := t.choiceNumber
        path := { s.path with
          forwarding := s.path.forwarding ++ l.map fun h => (h.seq, 0)
          table := s.path.table.map fun r =>
            if r.seq ∈ l.map (·.seq) then { r with disposition := .waiting } else r
          held := s.path.held.filter fun h => !l.contains h } }

/-- Of held writes with different numbers, one is told by its number. -/
theorem HeldWrite.eq_of_seq {l : List HeldWrite} (n : (l.map (·.seq)).Nodup) {a b : HeldWrite} (ha : a ∈ l) (hb : b ∈ l)
    (e : a.seq = b.seq) : a = b :=
  List.inj_on_of_nodup_map n ha hb e

/-- A number of releases: with as many as there are held writes no front write is left that touches no protected line (R13). -/
theorem State.releaseFronts_released (n : Nat) (s : State) (hn : (s.path.held.map (·.seq)).Nodup) :
    ∃ l, State.Released s (State.releaseFronts n s) l ∧
      (s.path.held.length ≤ n → ∀ h ∈ (State.releaseFronts n s).fronts, s.heldMeets h = true) := by
  induction n generalizing s with
  | zero =>
    refine ⟨[], ⟨List.nodup_nil, nofun, by simp, ?_⟩, ?_⟩
    · simp [State.releaseFronts]
    · intro hl h hh
      have : s.path.held = [] := List.length_eq_zero_iff.mp (by omega)
      simp [State.releaseFronts, State.fronts, this, frontsFrom] at hh
  | succ n ih =>
    unfold State.releaseFronts
    split
    · next e =>
      refine ⟨[], ⟨List.nodup_nil, nofun, by simp, ?_⟩, ?_⟩
      · simp
      · intro _ h hh
        have := List.filter_eq_nil_iff.mp e h hh
        simpa using this
    · next h rest e =>
      dsimp only
      generalize hx : (h :: rest).getD (s.choose (rest.length + 1)).1 h = x
      generalize hc : (s.choose (rest.length + 1)).2 = s1
      have hs1 : s1 = { s with choiceNumber := s1.choiceNumber } := by
        rw [← hc]; unfold State.choose; split <;> rfl
      have hxm : x ∈ h :: rest := by
        rw [← hx, List.getD_eq_getElem?_getD]
        cases hg : (h :: rest)[(s.choose (rest.length + 1)).1]? with
        | none => exact List.mem_cons_self
        | some y => exact List.mem_of_getElem? hg
      rw [← e, List.mem_filter] at hxm
      obtain ⟨hf, hm⟩ := hxm
      have hm : s.heldMeets x = false := by simpa using hm
      obtain ⟨-, b, c, hl, hb⟩ := (mem_frontsFrom _ _ _).mp hf
      have hmem : x ∈ s.path.held := by rw [hl]; simp
      have hheld : (s1.releaseWrite x).path.held = b ++ c := by
        have e1 : (s1.releaseWrite x).path.held = s.path.held.filter fun y => y.seq != x.seq := by
          rw [hs1]; rfl
        rw [e1, hl]
        rw [hl] at hn
        simp only [List.map_append, List.map_cons] at hn
        have hn' := hn
        rw [List.nodup_append] at hn
        obtain ⟨-, h2, h3⟩ := hn
        rw [List.nodup_cons] at h2
        rw [List.filter_append, List.filter_cons_of_neg (by simp), List.filter_eq_self.mpr, List.filter_eq_self.mpr]
        · intro a ha; simp only [bne_iff_ne, ne_eq]; intro e; exact h2.1 (e ▸ List.mem_map_of_mem ha)
        · intro a ha; simp only [bne_iff_ne, ne_eq]; intro e; exact h3 _ (List.mem_map_of_mem ha) _ (List.mem_cons_self) e
      have hnb : ((b ++ c).map (·.seq)).Nodup := by
        have : (b ++ c).Sublist s.path.held := by
          rw [hl]
          exact List.Sublist.append (List.Sublist.refl _) (List.sublist_cons_self _ _)
        exact hn.sublist (this.map _)
      have hxn : x ∉ b ++ c := by
        have := (hl ▸ hn : ((b ++ x :: c).map (·.seq)).Nodup).of_map
        rw [List.nodup_middle] at this
        exact (List.nodup_cons.mp this).1
      obtain ⟨l, r, g⟩ := ih (s1.releaseWrite x) (by rw [hheld]; exact hnb)
      have hmeets : ∀ y, (s1.releaseWrite x).heldMeets y = s.heldMeets y := by
        intro y; rw [hs1]; rfl
      have hsub : ∀ y ∈ l, y ∈ b ++ c := fun y hy => hheld ▸ (r.from_ y hy).1
      have hfil : (s.path.held.filter fun h => !(x :: l).contains h) = (b ++ c).filter fun h => !l.contains h := by
        rw [hl]
        rw [List.filter_append, List.filter_append, List.filter_cons_of_neg (by simp)]
        have k : ∀ y ∈ b ++ c, (!(x :: l).contains y) = !l.contains y := by
          intro y hy
          have : y ≠ x := fun e => hxn (e ▸ hy)
          simp [this]
        rw [List.filter_congr fun y hy => k y (List.mem_append_left _ hy),
          List.filter_congr fun y hy => k y (List.mem_append_right _ hy)]
      refine ⟨x :: l, ⟨?_, ?_, ?_, ?_⟩, ?_⟩
      · rw [List.map_cons, List.nodup_cons]
        refine ⟨?_, r.nodup⟩
        intro hm'
        obtain ⟨y, hy, e⟩ := List.mem_map.mp hm'
        have hy' := hsub y hy
        have : y = x := HeldWrite.eq_of_seq hn (by rw [hl]; rcases List.mem_append.mp hy' with h | h <;> simp [h]) hmem e
        exact hxn (this ▸ hy')
      · intro y hy
        rcases List.mem_cons.mp hy with rfl | hy
        · exact ⟨hmem, hm⟩
        · refine ⟨?_, hmeets y ▸ (r.from_ y hy).2⟩
          have := hsub y hy
          rw [hl]; rcases List.mem_append.mp this with h | h <;> simp [h]
      · intro i
        rw [hfil]
        have := r.order i
        rw [hheld] at this
        by_cases hi : x.id = i
        · rw [List.filter_cons_of_pos (by simp [hi]), List.cons_append, this, hl, List.filter_append,
            List.filter_append, List.filter_cons_of_pos (by simp [hi])]
          have : b.filter (fun h => h.id == i) = [] := List.filter_eq_nil_iff.mpr fun y hy => by simpa [← hi] using hb y hy
          rw [this]; rfl
        · rw [List.filter_cons_of_neg (by simp [hi]), this, hl, List.filter_append, List.filter_append,
            List.filter_cons_of_neg (by simp [hi])]
      · rw [hfil, ← hheld]
        have := r.state
        conv_lhs => rw [this]
        generalize (State.releaseFronts n (s1.releaseWrite x)).choiceNumber = cn
        rw [hs1]
        simp only [State.releaseWrite, State.modRec, List.map_cons, List.append_assoc, List.map_map,
          List.singleton_append, List.mem_cons]
        congr 2
        apply List.map_congr_left
        intro a ha
        simp only [Function.comp]
        by_cases h1 : a.seq = x.seq
        · simp [h1]
        · simp [h1]
      · intro hle y hy
        rw [← hmeets]
        refine g ?_ y hy
        rw [hheld]
        have : s.path.held.length = (b ++ c).length + 1 := by rw [hl]; simp; omega
        omega

/-- A release step (R13, R14). -/
theorem State.releaseStep_released (s : State) (hn : (s.path.held.map (·.seq)).Nodup) : 
    let t := s.releaseStep
    let due := s.timeBase + s.globals.holdLimit
    ∃ l : List HeldWrite,
      let stay := s.path.held.filter fun h => !l.contains h
      (l.map (·.seq)).Nodup ∧ (∀ h ∈ l, h ∈ s.path.held ∧ s.heldMeets h = false) ∧
      (∀ i : Id, (l.filter fun h => h.id == i) ++ (stay.filter fun h => h.id == i) =
        s.path.held.filter fun h => h.id == i) ∧
      (∀ h ∈ frontsFrom [] stay, s.heldMeets h = true) ∧
      t = { s with
        choiceNumber := t.choiceNumber
        path := { s.path with
          forwarding := s.path.forwarding ++ l.map fun h => (h.seq, 0)
          table := s.path.table.map fun r =>
            if r.seq ∈ l.map (·.seq) then { r with disposition := .waiting } else r
          held := stay.map fun h =>
            if h.expiry = none ∧ h ∈ frontsFrom [] stay then { h with expiry := some due } else h } } := by
  intro t due
  obtain ⟨l, r, g⟩ := State.releaseFronts_released s.path.held.length s hn
  have g := g (le_refl _)
  refine ⟨l, r.nodup, r.from_, r.order, ?_, ?_⟩
  · have e : (State.releaseFronts s.path.held.length s).fronts = frontsFrom [] (s.path.held.filter fun h => !l.contains h) := by
      unfold State.fronts; conv_lhs => rw [r.state]
    rw [← e]; exact g
  · have := r.state
    unfold t State.releaseStep
    generalize State.releaseFronts s.path.held.length s = u at *
    have key : u.startTimers = { u with path := { u.path with held := u.path.held.map fun h =>
        if h.expiry = none ∧ h ∈ u.fronts then { h with expiry := some due } else h } } := by
      unfold State.startTimers
      have hdue : u.timeBase + u.globals.holdLimit = due := by rw [this]; rfl
      dsimp only
      rw [hdue]
      have hnu : (u.path.held.map (·.seq)).Nodup := by
        rw [this]; exact hn.sublist (List.filter_sublist.map _)
      congr 2
      apply List.map_congr_left
      intro h hh
      have : (h.expiry.isNone && (u.fronts.map (·.seq)).contains h.seq) = true ↔ (h.expiry = none ∧ h ∈ u.fronts) := by
        simp only [Bool.and_eq_true, Option.isNone_iff_eq_none, List.contains_iff_mem, List.mem_map]
        refine and_congr_right fun _ => ⟨?_, fun m => ⟨h, m, rfl⟩⟩
        rintro ⟨y, hy, e⟩
        have hy' : y ∈ u.path.held := by
          obtain ⟨-, b, c, hl, -⟩ := (mem_frontsFrom _ _ _).mp hy
          rw [hl]; simp
        exact HeldWrite.eq_of_seq hnu hy' hh e ▸ hy
      simp only [this]
    rw [key]
    generalize u.choiceNumber = cn at *
    subst this
    rfl

end Sys2Proof.Machine
end

