-- ==== Sys2Proof/Tests/Slice0.lean ====
section
/-!
SUPPORT. Tests on fixed values: the well-formedness checks, one step of several commands on numbers from the examples of
spec/, and for every statement with hypotheses a state and operands that meet them together.
-/
namespace Sys2Proof.Tests
open Sys2Proof Sys2Proof.Machine

-- One theorem at a time: many small kernel checks side by side would each take a thread and its stack.
set_option Elab.async false

/-! ### Well-formedness -/

theorem test_wellFormed_read_boundaries :
    (Instr.systemReadArrival 1 0 1).wellFormed = true ∧ (Instr.systemReadArrival 1 0x1000 4096).wellFormed = true := by decide
theorem test_illFormed_read_of_no_byte : (Instr.systemReadArrival 1 0 0).wellFormed = false := by decide
theorem test_illFormed_read_too_long : (Instr.systemReadArrival 1 0 4097).wellFormed = false := by decide
theorem test_illFormed_read_crosses_4KiB : (Instr.systemReadArrival 1 0xFFF 2).wellFormed = false := by decide
theorem test_illFormed_write_of_no_byte : (Instr.systemWriteArrival 1 0 [] []).wellFormed = false := by decide
theorem test_illFormed_write_strobes : (Instr.systemWriteArrival 1 0 [7] [true, true]).wellFormed = false := by decide
theorem test_illFormed_write_crosses_4KiB :
    (Instr.systemWriteArrival 1 0xFFF [1, 2] [true, true]).wellFormed = false := by decide
theorem test_illFormed_write_too_long :
    (Instr.systemWriteArrival 1 0 (List.replicate 4097 0) (List.replicate 4097 true)).wellFormed = false := by decide +kernel
theorem test_illFormed_settings_strobes :
    (Instr.controlPageSettingsWrite 0 [1, 2] [true]).wellFormed = false := by decide
theorem test_illFormed_settings_crosses_4KiB :
    (Instr.controlPageSettingsWrite 0xFFF [1, 2] [true, true]).wellFormed = false := by decide
theorem test_illFormed_is_refused_by_name :
    exec (.systemReadArrival 1 0 0) State.reset = .refused .malformedTransaction := by rfl

/-! ### Small states -/

/-- Strand 0's settings, all in range: IncInt 1, MinPulseInterval 10, HoldTime 100, TorchDistance 100, MinBilletLength 50,
pitches 5 to 20 around 10. -/
def strandCells (cutSource : Byte) : List Host.Cell :=
  [(0xC00, 1), (0xC01, cutSource), (0xC04, 10), (0xC06, 100), (0xC10, 100), (0xC14, 50), (0xC1D, 1), (0xC1E, 1), (0xC20, 1),
    (0xC22, 1), (0xC26, 1), (0xC28, 1), (0xC2A, 1), (0xC2C, 1), (0xC30, 1), (0xC32, 1), (0xC34, 10), (0xC36, 5), (0xC38, 20),
    (0xC3A, 1)]

/-- Window Table entry 0: P8, 256 pixels, 17 lines, 1 MiB at 0x10000000, face channel 0, every ID. -/
def windowCells (enable : Byte) : List Host.Cell :=
  [(0x400, enable), (0x401, 20), (0x40B, 0x10), (0x418, 17), (0x41B, 1), (0x41D, 1), (0x422, 31)]

/-- Global Settings that Global Enable accepts. -/
def globalCells : List Host.Cell := [(0x06, 8), (0x10, 1), (0x12, 1)]

def running : State := { State.reset with part := .run }
def withShadow (m : List Host.Cell) : State := { running with shadow := m }

/-- The part in RUN with a unit and settings for strand 0. -/
def withUnit (cutSource : Byte) (u : StrandUnit) : State :=
  { withShadow (strandCells cutSource) with strands := vset State.reset.strands 0 { Strand.reset with unit := u } }

def casting : StrandUnit := { StrandUnit.reset with state := .casting, travel := 1000, lastPulse := some 50 }

def withPredictor (strand : StrandState) (p : Predictor) : State :=
  { withShadow (strandCells 1) with
    strands := vset State.reset.strands 0
      { Strand.reset with unit := { casting with state := strand }, predictor := p } }

def withBillet (b : Billet) : State :=
  { running with strands := vset State.reset.strands 0 { Strand.reset with billet := b } }

def withHead (h : Head) : State :=
  { running with faces := vset State.reset.faces 0 { Face.reset with head := h } }

def withSlot (m : List Host.Cell) (x : Slot) : State :=
  { withShadow m with evidence := { Evidence.reset with slots := vset Evidence.reset.slots 0 x } }

def withPath (p : Path) : State := { running with path := p }
def withOwn (o : Own) : State := { running with own := o }
def withQueue (l : List QueueEntry) : State := { running with lineQueue := l }

/-- A forwarded write record of one piece. -/
def oneRec (seq : Nat) : Rec :=
  { seq := seq, dir := .write, id := 1, addr := 0, count := 1, data := [7], strobes := [true], disposition := .forwarded
    pieces := [{ target := .direct 0, count := 1, answer := none }], window := none, face := none, captured := false
    controlPage := false, response := none }

def ownTxn (tag : OwnTag) (n : Nat) : OwnTxn := { tag := tag, addr := 0, count := n, data := [] }
def answering (tag : OwnTag) : State := withOwn { Own.reset with writes := [ownTxn tag 64] }

def heldWrite (w : Option (Fin 16)) : HeldWrite := { seq := 0, id := 1, window := w, offset := 0, count := 1, expiry := some 9 }

def aResult (segments : List Segment) : LineResult :=
  { face := 0, stamp := 5, ringLine := 1, noisy := false, gap := false, lowConf := false, segments := segments }

/-- A line of face 0 from window 0, cell 4 first. -/
def aLine (cells : List (List Byte)) : Line :=
  { face := 0, window := 0, stamp := 5, index := 0, gap := false, lowConf := false, firstCell := 4, cells := cells }

def aRead (id : Id) : PresentedRead := { id := id, addr := 0, count := 1 }
def aWrite (id : Id) (addr : Addr) : PresentedWrite := { id := id, addr := addr, data := [7], strobes := [true] }

/-- A state with transactions presented. -/
def presenting (s : State) (r : List PresentedRead) (w : List PresentedWrite) : State :=
  { s with path := { s.path with presentedReads := r, presentedWrites := w } }

/-- With no entry OPEN nothing is asked of an OPEN track. -/
theorem noTrack (s : State) (h : s.tracks = Vector.replicate 64 .free) (p : Fin 64 → Track → Prop) :
    ∀ i t, s.track i = some t → p i t := by
  intro i t g
  have e : s.track i = none := by simp [State.track, h, TrackEntry.free]
  rw [e] at g
  cases g

/-- An OPEN track of face 0 from travel 2 to 4. -/
def aTrack : Track := { newTrack none (aResult []) ⟨3, 4, 9⟩ with firstTravel := 2, lastTravel := 4 }

def aFinding : Finding := aTrack.toFinding (strandSettings [] 0) .corner false false false

def aRequest : CopyRequest :=
  { severity := 3, cls := .corner, face := 0, minCell := 3, maxCell := 4, firstTravel := 2, lastTravel := 4, window := 0
    firstRing := 1, lastRing := 2, poolEntry := some 0 }

/-- The invariant, of a state whose heads, pool, slots and units are as reset leaves them but for one unit in its range. -/
theorem inv_of (s : State) (u : StrandUnit) (hu : u.Ok) (h1 : Memory.wf s.shadow = true) (h2 : s.part ≠ .pass)
    (h3 : s.path = .reset) (h4 : s.own = .reset) (h5 : s.lineQueue = []) (h6 : s.ring = .reset)
    (h7 : s.faces = State.reset.faces) (h8 : s.evidence = .reset)
    (h9 : s.strands = vset State.reset.strands 0 { Strand.reset with unit := u }) : s.Inv := by
  have st : ∀ k, s.strand k = if 0 = k then { Strand.reset with unit := u } else .reset := by
    intro k
    rw [State.strand, h9, vget_vset]
    simp [State.reset]
  have hn : ∀ k, (s.billet k).numbers = [] := by
    intro k
    rw [State.billet, st]
    split <;> rfl
  refine ⟨h1, fun h => absurd h h2, by rw [h3]; decide, by rw [h3]; decide,
    by rw [h3]; exact ⟨.nil, nofun⟩, by rw [h4]; decide, by rw [h4]; decide,
    by rw [h5]; decide, by rw [h6]; decide, ?_, ?_, ⟨?_, ?_, ?_⟩, ?_⟩
  · intro k
    rw [State.unit, st]
    split
    · exact hu
    · exact ⟨by decide, by decide, by decide⟩
  · intro k
    rw [State.face, h7]
    simp only [State.reset, vget_replicate]
    exact ⟨by decide, by decide, by decide, by decide, by decide, by decide, by decide⟩
  · intro k n g
    rw [hn] at g
    cases g
  · intro k
    rw [hn]
    exact List.nodup_nil
  · intro j k _ n g
    rw [hn] at g
    cases g
  · intro i j g
    rw [State.slot, h8] at g
    simp [Evidence.reset] at g
    cases g

/-! ### One step, on the spec's own examples -/

/-- The key of 10.5. -/
theorem test_key_of_example : findingKey .longitudinal 3 0 2 false false false true false = 0x111A := by decide
/-- The filter entries of 10.5. -/
theorem test_filter_of_example :
    FilterEntry.hitsKey { enable := 1, action := 2, code := 0x001A, mask := 0x001F } 0x111A = true ∧
    FilterEntry.hitsKey { enable := 1, action := 2, code := 0x4000, mask := 0x4000 } 0x111A = false := by decide
/-- P10 and P12 drop the byte of low bits (10.9). -/
theorem test_pixels :
    cellPixels 1 [1, 2, 3, 4, 5, 6, 7, 8, 9, 10] = [1, 2, 3, 4, 6, 7, 8, 9] ∧
    cellPixels 2 [1, 2, 3, 4, 5, 6, 7, 8, 9, 10, 11, 12] = [1, 2, 4, 5, 7, 8, 10, 11] := by decide
/-- Two steps of the background in 4.9. -/
theorem test_background_of_example : moveBackground 30720 30976 = 30736 ∧ moveBackground 30720 30400 = 30700 := by decide
/-- The second pulse of 6.10. -/
theorem test_pitch_of_example :
    (Predictor.takeMeasure 100 150 31872 { Predictor.reset with pitch := 30720, pulseValid := true }).pitch = 31008 := by decide
/-- The misses that end the lock in 6.11. -/
theorem test_lock_lost_of_example :
    let x := { strandSettings [] 0 with tolerance := 6, gap := 40, missLimit := 3 }
    let p := Predictor.stamp x 11000
      { Predictor.reset with state := .locked, pitch := 30720, lastMark := 10485, nextMark := 10605 }
    p.state = .seeking ∧ p.lastMark = 10845 ∧ p.nextMark = 10965 ∧ p.missCount = 3 := by decide +kernel
/-- The copy range of 8.5. -/
theorem test_copy_range_of_example :
    copyRange { globals [] with tileCount := 8, marginLines := 4, marginCells := 2, guardLines := 64 }
      { window [] 3 with ringLines := 1024, pixelsPerLine := 2048, stride := 2048, firstCell := 20, lastCell := 235 } (some 50)
      { severity := 1, cls := .longitudinal, face := 0, minCell := 100, maxCell := 103, firstTravel := 0, lastTravel := 0,
        window := 3, firstRing := 1000, lastRing := 40, poolEntry := none } =
    { oldestLine := 996, rowCount := 73, firstCell := 98, lastCell := 105, byteOffset := 784, rowBytes := 64,
      clipped := false } := by decide +kernel
/-- A read of the last view byte of strand 3 and the byte after it makes two pieces (R9). -/
theorem test_view_pieces :
    running.viewPieces 0x93FF 2 =
      [{ target := .view 3 255, count := 1, answer := none }, { target := .direct 0x9400, count := 1, answer := none }] := by
  decide +kernel
/-- The four own-wait rows of R17 where both queues wait, at the boundary. -/
theorem test_arbiter_boundary :
    ((withPath { Path.reset with table := [oneRec 0], forwarding := [(0, 0)] }).arbitrate.own.waitCount = 0) ∧
    ({ withPath { Path.reset with table := [oneRec 0], forwarding := [(0, 0)] } with
       own := { Own.reset with queue := [ownTxn .tileRow 8], waitCount := 15 } }.arbitrate.own.waitCount = 16) ∧
    ({ withPath { Path.reset with table := [oneRec 0], forwarding := [(0, 0)] } with
       own := { Own.reset with queue := [ownTxn .tileRow 8], waitCount := 16 } }.arbitrate.own.queue = []) := by
  decide +kernel
/-- An encoder pulse on travel 1000 with IncInt 1. -/
theorem test_encoder_pulse :
    (match exec (.encoderPulse 0 60) (withUnit 1 casting) with
      | .next t => (t.unit 0).travel
      | .fault f => nomatch f
      | .refused _ => 0) = 1001 := by decide +kernel
/-- A level held for less than 1 ms is not taken, held for 1 ms it is, and the next change counts from there (R61). -/
theorem test_view_debounce :
    let after (since upTo : Nat) : Option (Bool × Nat) :=
      match exec (.viewLevelEdge 0 ⟨.active, since, upTo⟩) (withUnit 1 casting) with
      | .next t => some ((t.unit 0).viewActive, (t.unit 0).viewSettled)
      | .fault _ => none
      | .refused _ => none
    after 5 1004 = some (false, 0) ∧ after 5 1005 = some (true, 1005) := by decide +kernel

/-- A FREE entry holds zeros, and a track opened in an entry is read back from it (R85). -/
theorem test_track_entry :
    (vget State.reset.tracks 5).fields = .zero ∧ State.reset.track 5 = none ∧
    (State.reset.setTrack 5 (some aTrack)).track 5 = some aTrack ∧
    ((State.reset.setTrack 5 (some aTrack)).setTrack 5 none).tracks = State.reset.tracks := by decide +kernel

/-- A window enabled while its strand's view is ACTIVE keeps the warm-up count it holds; otherwise it starts from 0 (R69). -/
theorem test_model_at_enable :
    (Model.atEnable true { Model.reset with warmUp := 7 }).warmUp = 7 ∧
    (Model.atEnable false { Model.reset with warmUp := 7 }).warmUp = 0 := by decide +kernel

/-- A drop marks its face's block though the counts stand at their top (R82). -/
theorem test_drop_marks_the_block :
    let s : State := { running with
      faces := vset State.reset.faces 2 { Face.reset with counts := { ModelCounts.zero with dropped := 0xFFFFFFFF } }
      lineQueue := List.replicate 32 (.result (aResult [])), causes := { Causes.clear with pending := Cause.trackLimit.mask } }
    ((s.offerResult { aResult [] with face := 2 }).mark 8).dirty = true := by decide +kernel

/-- A candidate replaced and put back at one event marks the strand's block, though the observations stand at their top and the
record is again what it was (R113). -/
theorem test_observation_marks_the_block :
    let p : Predictor := { Predictor.reset with
      state := .seeking, pitch := 25600, candidate := some 1000, observations := 0xFFFFFFFF }
    let s := withPredictor .casting p
    let q := p.observe 6 2000
    let s1 := s.changePredictor 0 q
    let s2 := s1.changePredictor 0 (q.observe 6 1000)
    s2.predictor 0 = s.predictor 0 ∧ (s2.mark 2).dirty = true ∧ (s.mark 2).dirty = false := by decide +kernel

/-- A write in PASS that enables the part and disables a window whose ring is too short for GuardLines is refused (R25). -/
theorem test_cross_check_with_global_enable :
    let s : State := { State.reset with shadow := [(0x10, 1), (0x12, 1), (0x400, 1), (0x418, 16)] }
    let cells : List Host.Cell := [(0, 1), (0x06, 8), (0x400, 0)]
    s.globalChecks (merged s.shadow cells) = true ∧ s.checkGlobal cells = some .checkFailed ∧
    s.checkGlobal [(0, 1), (0x06, 8), (0x400, 0), (0x418, 17)] = none := by decide +kernel

/-- A read that finds the queue full waits and is not outstanding, and an abort withdraws it; given a place, it is outstanding. -/
theorem test_waiting_read_is_not_outstanding :
    let s : State := { withSlot (windowCells 1) { Slot.cleared with state := .copying, rowBytes := 300, rowCount := 1 } with
      own := { Own.reset with queue := List.replicate 8 (ownTxn .tileRow 8) } }
    let w := s.makeRead 0
    let g := { w with own := { w.own with queue := w.own.queue.tail } }.engineGiven
    (w.slot 0).readOutstanding = false ∧ w.own.engine.map (·.tag) = [.ringRead 0 0] ∧ w.waits .evidence = true ∧
    (w.withdrawReads 0).own.engine = [] ∧
    (g.slot 0).readOutstanding = true ∧ g.own.engine = [] ∧ g.own.queue.length = 8 := by decide +kernel

/-- The zero records' addresses run over the banks in the order of R140. -/
theorem test_zero_addresses :
    (List.range 16).map State.reset.zeroAddress =
      [0x8000, 0x8040, 0x8100, 0x8140, 0x8200, 0x8240, 0x8300, 0x8340, 0x8400, 0x8440, 0x8500, 0x8540, 0x8600, 0x8640,
        0x8700, 0x8740] := by decide +kernel

/-! ### The hypotheses of the statements are met -/

theorem test_met_StepRunsTheFrontCommand : State.reset.pending = [] := rfl

theorem test_met_EveryStepKeepsTheInvariant : ∃ s t : State, s.Inv ∧ step s = .next t :=
  ⟨{ withUnit 1 casting with pending := [.grant] }, _,
    inv_of _ casting ⟨by decide, by decide, by decide⟩ (by decide +kernel) (by decide) rfl rfl rfl rfl rfl rfl rfl, rfl⟩

theorem test_met_EveryCommandAnswers :
    Instr.grant.wellFormed = true ∧ Instr.grant ≠ .resetAssert ∧ (∀ a b, Instr.grant ≠ .resetRelease a b) ∧
    (Instr.systemReadArrival 1 0 0).wellFormed = false := by
  refine ⟨rfl, by decide, ?_, by decide⟩
  intro a b h
  cases h

theorem test_met_ResetAbandonsAndRestores :
    ({ State.reset with resetLow := true } : State).resetLow = true ∧ Instr.taking.wellFormed = true := ⟨rfl, rfl⟩

/-- In PASS, and in RUN outside the view, at the least and the greatest byte count. -/
theorem test_met_ReadArrivalIsForwarded :
    (State.reset.resetLow = false ∧ State.reset.nothingPresented ∧ State.reset.path.table.length < 64 ∧
      (Instr.systemReadArrival 1 0 4096).wellFormed = true ∧ (1 : Id) ≠ State.reset.ownId ∧ State.reset.part = .pass) ∧
    (running.resetLow = false ∧ running.nothingPresented ∧ running.path.table.length < 64 ∧
      (Instr.systemReadArrival 1 0x8FFF 1).wellFormed = true ∧ (1 : Id) ≠ running.ownId ∧
      running.inView 0x8FFF 1 = false) := by
  refine ⟨⟨rfl, ⟨rfl, rfl⟩, ?_, ?_, ?_, rfl⟩, rfl, ⟨rfl, rfl⟩, ?_, ?_, ?_, ?_⟩ <;> decide +kernel

theorem test_met_ViewReadIsSplit :
    running.resetLow = false ∧ running.nothingPresented ∧ running.path.table.length < 64 ∧
    (Instr.systemReadArrival 1 0x9000 4096).wellFormed = true ∧ (1 : Id) ≠ running.ownId ∧ running.part ≠ .pass ∧
    running.inView 0x9000 4096 = true ∧ running.inView 0x93FF 1 = true ∧ (running.viewPieces 0x9000 4096).length = 5 := by
  refine ⟨rfl, ⟨rfl, rfl⟩, ?_⟩; decide +kernel

theorem test_met_OwnIdIsRefused :
    running.resetLow = false ∧ running.nothingPresented ∧ running.path.table.length < 64 ∧ running.takesWrite 0 ∧
    (Instr.systemReadArrival running.ownId 0 1).wellFormed = true ∧
    (Instr.systemWriteArrival running.ownId 0 [7] [true]).wellFormed = true := by
  refine ⟨rfl, ⟨rfl, rfl⟩, ?_, ⟨?_, ?_, fun _ => rfl⟩, ?_, ?_⟩ <;> decide +kernel

/-- The first byte of the Status Page and the last of the Findings Ring. -/
theorem test_met_PartRegionIsRefused :
    running.takesWrite 0x4000 ∧ (Instr.systemWriteArrival 1 0x4000 [7] [false]).wellFormed = true ∧ (1 : Id) ≠ running.ownId ∧
    running.inControlPage 0x4000 = false ∧ running.inPartRegion 0x4000 1 = true ∧ running.inPartRegion 0x1FFFF 1 = true ∧
    running.inPartRegion 0x20000 1 = false ∧ running.inPartRegion 0x8080 0x80 = false ∧ running.globals.tileSizeLog ≤ 4 := by
  refine ⟨⟨by decide, by decide, fun _ => rfl⟩, ?_⟩; decide +kernel

/-- A write of the cause-enable mask passes every check, behind no held write and behind one of its ID; one to the settings of a
CASTING strand is refused; one behind a write in flight waits. -/
theorem test_met_ControlPageWriteArrives :
    let s := withUnit 1 casting
    let h := withPath { Path.reset with held := [heldWrite none] }
    let p := withPath { Path.reset with controlInFlight := some 0 }
    (h.takesWrite 0x100 ∧ h.opened.checkControl (coveredCells (0x100 - h.ctlBase) [1] [true]) = none ∧
      h.inPartRegion 0x100 1 = false ∧ h.captures (h.lookup 0x100) 1 = false ∧ h.path.held.any (fun x => x.id == 1) = true) ∧
    s.nothingPresented ∧ s.inControlPage 0x100 = true ∧ (1 : Id) ≠ s.ownId ∧ s.takesWrite 0x100 ∧
    s.opened.checkControl (coveredCells (0x100 - s.ctlBase) [1] [true]) = none ∧ s.inPartRegion 0x100 1 = false ∧
    s.captures (s.lookup 0x100) 1 = false ∧ s.holds 1 (s.lookup 0x100) (s.windowOffset (s.lookup 0x100) 0x100) 1 = false ∧
    s.inControlPage 0xC00 = true ∧ s.takesWrite 0xC00 ∧
    s.opened.checkControl (coveredCells (0xC00 - s.ctlBase) [1] [true]) = some .entryLocked ∧
    p.nothingPresented ∧ p.path.controlInFlight ≠ none ∧ (Instr.systemWriteArrival 1 0x100 [1] [true]).wellFormed = true := by
  refine ⟨⟨⟨by decide, by decide, fun _ => rfl⟩, by decide +kernel⟩, ⟨rfl, rfl⟩, by decide +kernel, by decide,
    ⟨by decide, by decide, fun _ => rfl⟩, by decide +kernel, by decide +kernel, by decide +kernel, by decide +kernel, by decide +kernel, ⟨by decide, by decide, fun _ => rfl⟩, by decide +kernel, ⟨rfl, rfl⟩,
    by decide, by decide⟩

/-- No held write and no window: the test passes. -/
theorem test_met_WriteArrivalIsForwarded :
    running.takesWrite 0x20000 ∧ (1 : Id) ≠ running.ownId ∧ running.inControlPage 0x20000 = false ∧
    running.inPartRegion 0x20000 1 = false ∧ running.captures (running.lookup 0x20000) 1 = false ∧
    running.path.held = [] ∧ running.lookup 0x20000 = none := by
  refine ⟨⟨by decide, by decide, fun _ => rfl⟩, ?_⟩; decide +kernel

/-- Behind a held write of its ID, and on a protected line of an enabled window whose ID does not match. -/
theorem test_met_WriteArrivalIsHeld :
    (let s := withPath { Path.reset with held := [heldWrite none] }
     s.takesWrite 0x20000 ∧ s.inControlPage 0x20000 = false ∧ s.inPartRegion 0x20000 1 = false ∧
      s.captures (s.lookup 0x20000) 1 = false ∧ ∃ h ∈ s.path.held, h.id = 1) ∧
    (let s := withSlot (windowCells 1) { Slot.cleared with state := .queued, rowCount := 1 }
     let p : State := { s with part := .pass }
     p.takesWrite 0x10000000 ∧ p.captures (p.lookup 0x10000000) 1 = false ∧ p.lookup 0x10000000 = some 0 ∧
      p.protectedRange 0 0 1 = true) := by
  refine ⟨⟨⟨by decide, by decide, fun _ => rfl⟩, ?_, ?_, ?_, ⟨heldWrite none, ?_, rfl⟩⟩, ⟨by decide, by decide, fun _ => rfl⟩, ?_⟩
  · decide +kernel
  · decide +kernel
  · decide +kernel
  · simp [withPath]
  · decide +kernel

/-- Behind no held write, and behind one of its ID. -/
theorem test_met_WriteArrivalIsCaptured :
    let s := withShadow (windowCells 1)
    let h : State := { s with path := { Path.reset with held := [heldWrite none] } }
    (s.takesWrite 0x10000000 ∧ s.inControlPage 0x10000000 = false ∧ s.part = .run ∧ s.inPartRegion 0x10000000 1 = false ∧
      s.lookup 0x10000000 = some 0 ∧ (s.window 0).idMatches 1 = true ∧ (s.opened.captureWrite 0 0 [7] [true]).path.held = [] ∧
      (s.opened.captureWrite 0 0 [7] [true]).protectedRange 0 0 1 = false) ∧
    h.takesWrite 0x10000000 ∧ h.lookup 0x10000000 = some 0 ∧
    (h.opened.captureWrite 0 0 [7] [true]).path.held.any (fun x => x.id == 1) = true := by
  refine ⟨⟨⟨by decide, by decide, fun _ => rfl⟩, ?_⟩, ⟨by decide, by decide, fun _ => rfl⟩, ?_⟩ <;> decide +kernel

/-- A window of lines of 256 bytes. A piece that goes on with the line, one that brings it to LineBytes, one that does not go on; a
piece that opens a line, one with a strobe clear, one elsewhere. -/
theorem test_met_LinePiecesMakeLines :
    let x := window (windowCells 1) 0
    let fill (n : Nat) : Assembler := { Assembler.reset with filling := true, line := 3, carry := List.replicate n 0 }
    let piece (at_ n : Nat) (b : Bool) : LinePiece :=
      { line := 3, start := at_, data := List.replicate n 0, strobes := List.replicate n b }
    0 < x.stride ∧ x.lineBytes = 256 ∧ x.lineBytes ≤ x.stride ∧
    (linePieces x 255 [1, 2] [true, true]).length ≤ 2 ∧
    (piece 8 8 true).line = (fill 8).line ∧ (piece 8 8 true).start = (fill 8).carry.length ∧
    ((fill 8).carry ++ (piece 8 247 true).data).length < x.lineBytes ∧
    x.lineBytes ≤ ((fill 8).carry ++ (piece 8 248 true).data).length ∧
    (piece 9 8 true).start ≠ (fill 8).carry.length ∧ (piece 0 8 true).strobes.all id = true ∧
    (piece 0 8 false).strobes.all id = false ∧ Assembler.reset.filling = false := by decide +kernel

theorem test_met_FullPathLeavesArrivalsPresented :
    64 ≤ (withPath { Path.reset with table := (List.range 64).map oneRec }).path.table.length ∧
    16 ≤ (withPath { Path.reset with held := List.replicate 16 (heldWrite none) }).path.held.length := by decide +kernel

/-- A read that goes before a write that the Control Page write in flight keeps, a write behind it waiting too; a write that goes with
63 records and 15 held; both; and a read that stays with 64 records. -/
theorem test_met_FullPathLeavesArrivalsPresented_taking :
    let kept := presenting (withPath { Path.reset with controlInFlight := some 0 }) [aRead 1] [aWrite 1 0x100, aWrite 2 0x20000]
    let near := presenting (withPath { Path.reset with table := (List.range 63).map oneRec, held := List.replicate 15 (heldWrite none) })
      [] [aWrite 1 0x100]
    let full := presenting (withPath { Path.reset with table := (List.range 64).map oneRec }) [aRead 1] []
    (kept.path.presentedReads ≠ [] ∧ kept.path.table.length < 64 ∧ kept.writeReady = false ∧
      kept.takePresented.path.presentedReads = [] ∧ kept.takePresented.path.presentedWrites.length = 2) ∧
    (near.readReady = false ∧ near.path.presentedWrites = [aWrite 1 0x100] ∧ near.takesWrite 0x100) ∧
    (let both := presenting running [aRead 1] [aWrite 1 0x20000]
     both.path.presentedReads ≠ [] ∧ both.path.table.length < 64 ∧ both.path.presentedWrites = [aWrite 1 0x20000] ∧
      both.takesWrite 0x20000) ∧
    full.readReady = false ∧ full.writeReady = false := by
  refine ⟨?_, ⟨?_, rfl, ?_, ?_, fun _ => rfl⟩, ⟨?_, ?_, rfl, ?_, ?_, fun _ => rfl⟩, ?_⟩ <;> decide +kernel

/-- A read of OWNID and another; a write of OWNID, one refused by its check, one by its region, one not captured and one captured. -/
theorem test_met_FullPathLeavesArrivalsPresented_taken :
    running.ownId ≠ 1 ∧ (presenting running [aRead running.ownId, aRead 1] []).path.presentedReads = [aRead running.ownId, aRead 1] ∧
    (let s := presenting (withUnit 1 casting) [] [aWrite 1 0xC00]
     s.inControlPage 0xC00 = true ∧ s.checkControl (coveredCells (0xC00 - s.ctlBase) [7] [true]) = some .entryLocked) ∧
    (running.inControlPage 0x4000 = false ∧ running.inPartRegion 0x4000 1 = true) ∧
    (running.inPartRegion 0x20000 1 = false ∧ running.captures (running.lookup 0x20000) 1 = false) ∧
    (let s := withShadow (windowCells 1)
     s.lookup 0x10000000 = some 0 ∧ (s.window 0).idMatches 1 = true ∧ s.inPartRegion 0x10000000 1 = false) := by decide +kernel

/-- The rows of R17: both empty; forwarded alone, and against an own head at 15; own alone, and at 16. -/
theorem test_met_GrantFollowsTheArbiterTable :
    (running.path.forwarding = [] ∧ running.own.queue = []) ∧
    (let s := withPath { Path.reset with table := [oneRec 0], forwarding := [(0, 0)] }
     s.record 0 = some (oneRec 0) ∧ (oneRec 0).pieces[0]? = some { target := .direct 0, count := 1, answer := none } ∧
      s.own.queue = []) ∧
    (withOwn { Own.reset with queue := [ownTxn .tileRow 8], waitCount := 15 }).own.waitCount < 16 ∧
    (withOwn { Own.reset with queue := [ownTxn .tileRow 8] }).path.forwarding = [] ∧
    16 ≤ (withOwn { Own.reset with queue := [ownTxn .tileRow 8], waitCount := 16 }).own.waitCount := by decide +kernel

/-- Two units that waited equally long and one since; the Status Writer with block 3; the engine, with a write and with a read; the
zero records; a close that takes entries, and one with no half and with one half queued. -/
theorem test_met_PlaceGoesToTheWaitingUnit :
    let seven (l : List (Waiter × Nat)) : State := withOwn { Own.reset with queue := List.replicate 7 (ownTxn .tileRow 8), waiters := l }
    let closing (c : CloseState) (n : Nat) : State := { seven [(.close 0, 0)] with
      strands := vset State.reset.strands 0 { Strand.reset with billet := { Billet.reset with close := c, halvesQueued := n } } }
    let status : State := { seven [(.statusWriter, 0)] with
        marks := vset State.reset.marks 3 { BlockMarks.reset with dirty := true } }
    ((seven [(.evidence, 1), (.zeroRecords, 0), (.close 2, 0)]).own.queue.length = 7 ∧
      (seven [(.evidence, 1), (.zeroRecords, 0), (.close 2, 0)]).own.waiters ≠ []) ∧
    (status.own.waiters = [(.statusWriter, 0)] ∧ (status.mark 3).qualifies = true ∧
      ∀ j : Fin 22, j < 3 → (status.mark j).qualifies = false) ∧
    (withOwn { Own.reset with queue := List.replicate 7 (ownTxn .tileRow 8), waiters := [(.evidence, 0)],
                              engine := [ownTxn .tileRow 8] }).own.engine = [ownTxn .tileRow 8] ∧
    (withOwn { Own.reset with queue := List.replicate 7 (ownTxn .tileRow 8), waiters := [(.evidence, 0)],
                              engine := [ownTxn (.ringRead 0 0) 8] }).own.engine = [ownTxn (.ringRead 0 0) 8] ∧
    OwnTag.tileRow.isRead = false ∧
    (let z : State := { seven [(.zeroRecords, 0)] with zeroToQueue := 1 }
     z.own.waiters = [(.zeroRecords, 0)] ∧ 0 < z.zeroToQueue) ∧
    ((closing .taking 0).billet 0).close = .taking ∧
    (((closing .recording 0).billet 0).close = .recording ∧ ((closing .recording 0).billet 0).halvesQueued = 0) ∧
    ((closing .recording 1).billet 0).halvesQueued = 1 := by decide +kernel

/-- A known response stays behind an unanswered record of its ID and kind. -/
theorem test_met_ResponsesReturnInOrder :
    (returnPass [] [oneRec 0, { oneRec 1 with response := some (.okay, []) }]).1[1]? =
      some { oneRec 1 with response := some (.okay, []) } := by decide +kernel

/-- An only piece; one piece of a split read, the other answered and not; a captured write answered ERROR. -/
theorem test_met_ForwardedResponseReturns :
    let s := withPath { Path.reset with table := [oneRec 0], issued := [(0, 0)] }
    let piece (a : Option (Resp × List Byte)) : Piece := { target := .direct 0, count := 1, answer := a }
    let split (a : Option (Resp × List Byte)) : Rec := { oneRec 0 with dir := .read, pieces := [piece a, piece none] }
    let v (a : Option (Resp × List Byte)) := withPath { Path.reset with table := [split a], issued := [(0, 1)] }
    let c := withPath { Path.reset with table := [{ oneRec 0 with face := some 3, captured := true }], issued := [(0, 0)] }
    (s.nothingPresented ∧ s.answered .write 1 = some (0, 0) ∧ s.record 0 = some (oneRec 0) ∧
      (oneRec 0).dataFits 0 [] = true ∧ (oneRec 0).face = none ∧ (oneRec 0).controlPage = false) ∧
    ((v none).nothingPresented ∧ (v none).answered .read 1 = some (0, 1) ∧ (v none).record 0 = some (split none) ∧
      (split none).dataFits 1 [7] = true) ∧
    (v (some (.okay, [7]))).record 0 = some (split (some (.okay, [7]))) ∧
    c.answered .write 1 = some (0, 0) ∧ (c.record 0).map (·.face) = some (some 3) := by
  refine ⟨⟨⟨rfl, rfl⟩, ?_⟩, ⟨⟨rfl, rfl⟩, ?_⟩, ?_⟩ <;> decide +kernel

/-- A Control Page write in flight; a strand and a head for each action alone. -/
theorem test_met_ControlWriteTakesEffectAtOkay :
    let i := withShadow (strandCells 3)
    (i.part = .run ∧ (i.unit 0).state = .idle ∧ (i.settings 0).ok = true ∧ i.path.controlInFlight = none) ∧
    ((withUnit 1 casting).unit 0).state = .casting ∧
    ((withHead { Head.reset with state := .off, errors := 256 }).face 0).head.state = .off ∧
    (3 : Byte).toNat < 4 ∧ 4 ≤ (4 : Byte).toNat ∧ (15 : Byte).toNat < 16 ∧ 16 ≤ (16 : Byte).toNat ∧
    let r := { oneRec 0 with controlPage := true }
    let s := withPath { Path.reset with table := [r], issued := [(0, 0)], controlInFlight := some 0 }
    s.answered .write 1 = some (0, 0) ∧ s.record 0 = some r ∧ r.dir = .write ∧ r.face = none ∧ r.controlPage = true := by
  decide +kernel

/-- A write to a window, and to none, whose timer runs; one whose timer does not run; a slot that protects the line it touches, and
is live, and one that does not, and is not. -/
theorem test_met_HoldLimitExpiryReleasesTheFront :
    let s : State := { withSlot (windowCells 1) { Slot.cleared with state := .queued, rowCount := 1 } with
      path := { Path.reset with held := [heldWrite (some 0)] } }
    let n := withPath { Path.reset with held := [heldWrite none] }
    s.nothingPresented ∧ (s.fronts.find? fun x => x.id == 1) = some (heldWrite (some 0)) ∧
    (heldWrite (some 0)).expiry = some 9 ∧ s.slotMet 0 0 0 1 = true ∧ s.slotMet 1 0 0 1 = false ∧
    (n.fronts.find? fun x => x.id == 1) = some (heldWrite none) ∧ (s.path.held.map (·.seq)).Nodup ∧
    ((withPath { Path.reset with held := [{ heldWrite none with expiry := none }] }).fronts.find? fun x => x.id == 1) =
      some { heldWrite none with expiry := none } ∧
    ((s.slot 0).state = .queued ∧ (s.slot 0).outcome = none) ∧ (running.slot 0).state = .idle := by
  refine ⟨⟨rfl, rfl⟩, ?_⟩; decide +kernel

/-- Each clause at the counter values where it begins or ends, of error and of good-line events. -/
theorem test_met_HeadFollowsTheCounter :
    ((withHead { Head.reset with state := .off, errors := 256 }).face 0).head.state = .off ∧
    ((withHead { Head.reset with state := .recovering, goodRun := 63 }).face 0).head.goodRun = 63 ∧
    ((withHead { Head.reset with state := .recovering, goodRun := 62 }).face 0).head.goodRun ≠ 63 ∧
    (((withHead { Head.reset with state := .passive, errors := 247 }).face 0).head.errors + 8 < 256) ∧
    (256 ≤ ((withHead { Head.reset with state := .passive, errors := 248 }).face 0).head.errors + 8) ∧
    ((withHead { Head.reset with state := .passive, errors := 129 }).face 0).head.errors ≤ 256 ∧
    (((withHead { Head.reset with state := .passive, errors := 129 }).headGood 0).face 0).head.state = .passive ∧
    (((withHead { Head.reset with state := .passive, errors := 128 }).headGood 0).face 0).head.state = .active := by
  decide +kernel

/-- An interval of exactly MinPulseInterval is accepted, one less is rejected; a disarmed comparator. -/
theorem test_met_EncoderPulse_accepted_and_rejected :
    let s := withUnit 1 casting
    (s.unit 0).state = .casting ∧ (s.unit 0).fraction ≤ 65535 ∧ (s.unit 0).lastPulse = some 50 ∧
    (s.settings 0).minPulseInterval ≤ max s.timeBase 60 - 50 ∧ max s.timeBase 59 - 50 < (s.settings 0).minPulseInterval ∧
    (s.unit 0).comparator = none ∧ (running.unit 0).state = .idle := by decide +kernel

theorem test_met_EncoderPulse_advance :
    (2 ^ 40 - 1 : Nat) ≤ 2 ^ 40 - 1 ∧ (65535 : Nat) ≤ 65535 ∧ ((withUnit 1 casting).settings 0).incInt ≠ 0 := by decide +kernel

/-- An armed comparator whose point the pulse reaches, and one a tu short of it. -/
theorem test_met_EncoderPulse_comparator :
    let s := withUnit 2 { casting with comparator := some 1001 }
    (s.unit 0).state = .casting ∧ (s.unit 0).comparator = some 1001 ∧
    1001 ≤ (s.unit 0).travel + (s.settings 0).incInt ∧ (s.unit 0).travel + (s.settings 0).incInt < 1002 := by decide +kernel

/-- Boundary 50 after 0, seen: exactly MinBilletLength; and the first boundary, least above the last. -/
theorem test_met_CutIsAccepted :
    (let s := withUnit 1 { casting with travel := 150, boundarySeen := true }
     let u := s.unit 0
     (s.settings 0).cutSource = 1 ∧ (s.settings 0).torchDistance ≤ u.travel ∧ u.lastBoundary < u.travel - 100 ∧
      (s.settings 0).minBilletLength ≤ u.travel - 100 - u.lastBoundary ∧ u.pendingBoundary = none ∧
      s.path.controlInFlight = none) ∧
    (let u := (withUnit 3 { casting with state := .held, travel := 101 }).unit 0
     u.lastBoundary < u.travel - 100 ∧ u.boundarySeen = false) := by decide +kernel

/-- One state for each reason, at the boundary of its range, and one for a source that is not the cut line. -/
theorem test_met_CutIsRejected :
    let x := (withUnit 1 casting).settings 0
    ((withUnit 1 { casting with state := .stopping }).unit 0).state = .stopping ∧
    ((withUnit 1 { casting with travel := 99 }).unit 0).travel < x.torchDistance ∧
    (let u := (withUnit 1 { casting with travel := 100 }).unit 0
     x.torchDistance ≤ u.travel ∧ u.travel - x.torchDistance ≤ u.lastBoundary) ∧
    (let u := (withUnit 1 { casting with travel := 149, boundarySeen := true }).unit 0
     u.lastBoundary < u.travel - x.torchDistance ∧ u.travel - x.torchDistance - u.lastBoundary < x.minBilletLength) ∧
    (let u := (withUnit 1 { casting with travel := 150, boundarySeen := true, pendingBoundary := some 0 }).unit 0
     x.minBilletLength ≤ u.travel - x.torchDistance - u.lastBoundary ∧ u.pendingBoundary ≠ none) ∧
    ((withUnit 2 casting).settings 0).cutSource ≠ 1 ∧ ((withUnit 2 casting).settings 0).cutSource ≠ 3 := by decide +kernel

theorem test_met_TimerExpiriesTakeEffect_hold :
    let s := withUnit 1 { casting with holdTimer := some 100 }
    (s.unit 0).state = .casting ∧ (s.unit 0).holdTimer = some 100 := by decide +kernel

theorem test_met_StrandStartAndStop_start :
    let s := withShadow (strandCells 3)
    s.path.controlInFlight = none ∧ s.part = .run ∧ (s.unit 0).state = .idle ∧ (s.settings 0).ok = true := by decide +kernel

/-- The strand's marker place held by its boundary marker, and free. -/
theorem test_met_StrandStartAndStop_stop :
    ((withUnit 1 casting).unit 0).state = .casting ∧
    holdsBoundary 0 ({ withUnit 1 casting with lineQueue := [.boundary 0 5] } : State).lineQueue = true ∧
    holdsBoundary 0 (withUnit 1 casting).lineQueue = false := by decide +kernel

/-- An open entry of the face, none with a list of 1 that begins at this travel, at another, and a list of 8. -/
theorem test_met_CoverageKeepsTheGapList :
    let g (start : Nat) (upTo : Option Nat) : GapEntry := { mask := 1, start := start, upTo := upTo }
    let u (l : List GapEntry) : StrandUnit := { casting with gaps := l }
    (u []).state = .casting ∧ StrandUnit.reset.state = .idle ∧
    ((g 5 none).upTo = none ∧ (g 5 none).mask.getLsbD (0 : Fin 4).val = true) ∧
    (u [g 1000 (some 1000)]).gaps = [] ++ [g 1000 (some 1000)] ∧ (g 1000 none).start = (u []).travel ∧
    (u [g 5 (some 6)]).gaps.length < 8 ∧ (g 5 (some 6)).start ≠ (u []).travel ∧
    8 ≤ (u (List.replicate 8 (g 5 (some 6)))).gaps.length := by decide +kernel

/-- A level held a microsecond short of 1 ms, one held 1 ms, to each level and to the level already held. -/
theorem test_met_ViewEdgeMovesTheModels :
    ((withUnit 1 { casting with viewActive := true }).unit 0).viewActive = true ∧ (running.unit 0).viewActive = false ∧
    1004 < max 5 (running.unit 0).viewSettled + 1000 ∧ max 5 (running.unit 0).viewSettled + 1000 ≤ 1005 ∧
    (running.face 0).model.state = .disabled ∧ ({ Model.reset with state := .ready } : Model).state = .ready := by decide +kernel

/-- A stamp at the edge of the next mark and one beyond; the last miss before MissLimit and the one that reaches it. -/
theorem test_met_PredictorMissesAndLosesLock :
    let x := { strandSettings [] 0 with tolerance := 6, gap := 40, missLimit := 3 }
    let p (n : Nat) : Predictor := { Predictor.reset with state := .coasting, pitch := 25600, nextMark := 100, missCount := n }
    ¬(p 0).nextMark + x.tolerance + x.gap < 146 ∧ (p 0).nextMark + x.tolerance + x.gap < 147 ∧
    (p 1).missCount + 1 < x.missLimit ∧ x.missLimit ≤ (p 2).missCount + 1 ∧ 1 ≤ x.missLimit ∧
    ((p 2).stamp x 147).state = .seeking ∧ ((p 1).stamp x 147).state = .coasting := by decide +kernel

/-- The clauses of the oscillation pulse, a measurement at each end of the range and one beyond each. -/
theorem test_met_OscillationPulseMeasuresThePitch :
    let p : Predictor := { Predictor.reset with state := .seeking, pitch := 2560, pulseTravel := 980, pulseValid := true }
    let m (q : Predictor) : Nat := q.measure 1000 0
    let s := withPredictor .casting p
    (running.predictor 0).state = .off ∧ ((withPredictor .held p).unit 0).state = .held ∧ (s.predictor 0).state ≠ .off ∧
    (s.unit 0).state = .casting ∧ (s.predictor 0).pulseValid = true ∧ (s.predictor 0).haltMark = false ∧
    m p = (s.settings 0).pitchMax * 256 ∧ m { p with pulseTravel := 995 } = (s.settings 0).pitchMin * 256 ∧
    (s.settings 0).pitchMax * 256 < m { p with pulseTravel := 979 } ∧
    m { p with pulseTravel := 996 } < (s.settings 0).pitchMin * 256 := by decide +kernel

theorem test_met_TimerExpiriesTakeEffect :
    ((withBillet { Billet.reset with alert := true, alertTimer := some 7 }).billet 0).alertTimer = some 7 ∧
    ({ running with statusTimer := some 7 } : State).statusTimer = some 7 ∧
    (({ running with marks := vset State.reset.marks 2 { BlockMarks.reset with periodic := true } } : State).mark 2).periodic =
      true := by decide +kernel

/-- A stale result, and a result of an IDLE strand. -/
theorem test_met_TakingDiscardsStaleResults :
    (withQueue [.result (aResult [])]).nothingPresented ∧
    0 < (({ withQueue [.result (aResult [])] with
      faces := vset State.reset.faces 0 { Face.reset with staleCount := 1, queuedCount := 1 } } : State).face 0).staleCount ∧
    ((withQueue [.result (aResult [])]).unit (strandOf 0)).state = .idle := by
  refine ⟨⟨rfl, rfl⟩, ?_⟩; decide +kernel

theorem test_met_TakingOpensATrack :
    let s : State := { withUnit 1 casting with lineQueue := [.result (aResult [⟨3, 4, 9⟩])] }
    s.nothingPresented ∧ (s.face 0).staleCount = 0 ∧ (s.unit (strandOf 0)).state = .casting ∧
    (∀ i t, s.track i = some t → t.face ≠ 0) ∧ (s.predictor (strandOf 0)).state = .off ∧ s.track 0 = none ∧
    (∀ i : Fin 64, i < 0 → s.track i ≠ none) := by
  refine ⟨⟨rfl, rfl⟩, by decide +kernel, by decide +kernel, noTrack _ rfl _, by decide +kernel, by decide +kernel, ?_⟩
  intro i h
  exact absurd h (Nat.not_lt_zero _)

/-- A table whose last entry alone is FREE. -/
theorem test_met_TakingOpensATrack_free :
    let s : State := { running with tracks := vset (Vector.replicate 64 { isOpen := true, fields := aTrack }) 63 .free }
    s.track 63 = none ∧ ∀ i : Fin 64, i < 63 → s.track i ≠ none := by decide +kernel

/-- A full table of equal tracks: entry 0 is the victim, of a segment of peak 10, and not of one of peak 9. -/
theorem test_met_TakingOpensATrack_full :
    let s : State := { running with tracks := Vector.replicate 64 { isOpen := true, fields := aTrack } }
    (∀ i : Fin 64, s.track i ≠ none) ∧ s.track 0 = some aTrack ∧
    (∀ i t, s.track i = some t → aTrack.sum < t.sum ∨ aTrack.sum = t.sum ∧
      (aTrack.firstTravel < t.firstTravel ∨ aTrack.firstTravel = t.firstTravel ∧ (0 : Fin 64) ≤ i)) ∧
    aTrack.sum < 10 ∧ 9 ≤ aTrack.sum := by
  have e : ∀ i : Fin 64, ({ running with tracks := Vector.replicate 64 { isOpen := true, fields := aTrack } } : State).track i =
      some aTrack := by
    intro i
    simp [State.track]
  refine ⟨fun i => by rw [e]; exact nofun, e 0, fun i t h => ?_, by decide, by decide⟩
  rw [e] at h
  cases h
  exact .inr ⟨rfl, .inr ⟨rfl, Fin.zero_le _⟩⟩

/-- A result that is used; a list of OPEN entries with no entry twice, a segment that extends its first and one that none gains. -/
theorem test_met_ResultsAgeAndExtendTracks :
    (let s : State := { withUnit 1 casting with lineQueue := [.result (aResult [⟨3, 4, 9⟩])] }
     s.lineQueue = [.result (aResult [⟨3, 4, 9⟩])] ∧ (s.face 0).staleCount = 0 ∧ (s.unit (strandOf 0)).state = .casting) ∧
    ([((0 : Fin 64), aTrack), (1, aTrack)].map (·.1)).Nodup ∧
    matchOf 1 5 [(0, aTrack), (1, aTrack)] ⟨5, 6, 9⟩ = some 0 ∧ matchOf 1 5 [(0, aTrack), (1, aTrack)] ⟨6, 6, 9⟩ = none ∧
    matchOf 1 6 [(0, aTrack)] ⟨5, 6, 9⟩ = none := by decide +kernel

/-- A track for each row of R107, at the bound that its row names. -/
theorem test_met_CloseMeasuresTheTrack :
    let x := { strandSettings [] 0 with longMin := 10, widthMax := 2, transMaxLen := 5, transMinCells := 3, markSpanCells := 4
                                        deepContrast := 50 }
    let t (len cells peak : Nat) (edge : Bool) : Track :=
      { aTrack with firstTravel := 0, lastTravel := len, minCell := 0, maxCell := cells - 1, peak := peak, edge := edge }
    (t 10 9 9 true).classify x false = .finding .corner ∧ (t 10 2 9 false).classify x false = .finding .longitudinal ∧
    (t 5 3 9 false).classify x false = .finding .transverse ∧ (t 5 4 50 false).classify x false = .finding .markRoot ∧
    (t 5 4 49 false).classify x false = .oscMark ∧ (t 5 3 49 false).classify x true = .oscMark ∧
    (t 6 3 9 false).classify x false = .scale ∧ (State.reset.setTrack 0 (some aTrack)).track 0 = some aTrack := by decide +kernel

/-- With no stop marker, and with one owed. -/
theorem test_met_TakingABoundaryStartsTheClose :
    let s : State := { withUnit 1 casting with lineQueue := [.boundary 0 5] }
    s.nothingPresented ∧ (s.unit 0).stopMarker = none ∧
    ((withUnit 1 { casting with state := .stopping, stopMarker := some (.owed, 9) }).unit 0).stopMarker = some (.owed, 9) ∧ (∀ i t, s.track i = some t → strandOf t.face = 0 → 5 ≤ t.firstTravel) ∧
    (s.billet 0).close = .idle ∧ (s.billet 0).holdList = [] ∧ s.own.queue.length + s.own.waiters.length ≤ 6 :=
  ⟨⟨rfl, rfl⟩, by decide +kernel, by decide +kernel, noTrack _ rfl _, by decide +kernel, by decide +kernel, by decide +kernel⟩

/-- A front entry below the tail, of each action, with a ring full and not, a place free, given and neither; a front at the
tail; none, one and both of the halves queued. -/
theorem test_met_HoldEntriesAreTaken :
    let e (a : Action) : PoolEntry := { number := 0, finding := { aFinding with action := a } }
    let s (a : Action) (put : Nat) : State := { withBillet { Billet.reset with
        working := { Working.cleared with tail := 3 }, holdList := [e a] } with ring := { Ring.reset with put := put } }
    let none_ : State := { s .publish 0 with own := { Own.reset with queue := List.replicate 8 (ownTxn .tileRow 8) } }
    ((s .count 0).billet 0).holdList = [e .count] ∧ (e .count).finding.firstTravel < ((s .count 0).billet 0).working.tail ∧
    ((s .publish 1023).ring.put + 1024 - (s .publish 1023).getIndex) % 1024 = 1023 ∧
    ((s .publish 1022).ring.put + 1024 - (s .publish 1022).getIndex) % 1024 ≠ 1023 ∧ (s .publish 0).placeFree = true ∧
    (s .publish 0).own.queue.length < 8 ∧ none_.placeFree = false ∧ none_.own.waiters = [] ∧ (e .publish).finding.action ≠ .count ∧
    2 ≤ (e .count).finding.firstTravel ∧ ((s .count 0).billet 0).halvesQueued = 0 ∧
    ((withBillet { Billet.reset with halvesQueued := 1 }).billet 0).halvesQueued < 2 ∧
    2 ≤ ((withBillet { Billet.reset with halvesQueued := 2 }).billet 0).halvesQueued := by decide +kernel

/-- A final boundary at the head boundary, with a Hold List empty and not, one above it, and a close in hand. -/
theorem test_met_TakingAStopEndsTheCast :
    ((withBillet { Billet.reset with holdList := [{ number := 0, finding := aFinding }] }).billet 0).holdList ≠ [] ∧
    let s : State := { withBillet { Billet.reset with headBoundary := 5 } with lineQueue := [.stop 0 5] }
    let c : State := { withBillet { Billet.reset with close := .recording } with lineQueue := [.stop 0 5] }
    s.nothingPresented ∧ (∀ i t, s.track i = some t → strandOf t.face ≠ 0) ∧ (s.billet 0).close = .idle ∧
    (s.billet 0).holdList = [] ∧ 5 ≤ (s.billet 0).headBoundary ∧ (s.billet 0).headBoundary < 6 ∧
    s.own.queue.length + s.own.waiters.length ≤ 6 ∧ c.nothingPresented ∧ (c.billet 0).close ≠ .idle ∧
    (∀ i t, c.track i = some t → strandOf t.face ≠ 0) :=
  ⟨by decide +kernel, ⟨rfl, rfl⟩, noTrack _ rfl _, by decide +kernel, by decide +kernel, by decide +kernel, by decide +kernel,
    by decide +kernel, ⟨rfl, rfl⟩, by decide +kernel, noTrack _ rfl _⟩

/-- A boundary inside the track, at its two edges, and one past it; a boundary marker taken with a stop marker owed and with none, with
no close in hand and with one. -/
theorem test_met_BoundarySplitsAStraddlingTrack :
    (let s : State := { withUnit 1 { casting with stopMarker := some (.owed, 9) } with lineQueue := [.boundary 0 5] }
     s.lineQueue = [.boundary 0 5] ∧ (s.unit 0).stopMarker = some (.owed, 9) ∧ (running.unit 0).stopMarker = none) ∧
    (running.billet 0).close = .idle ∧ ((withBillet { Billet.reset with close := .taking }).billet 0).close ≠ .idle ∧
    aTrack.firstTravel < 3 ∧ 4 ≤ aTrack.lastTravel ∧ aTrack.lastTravel < 5 := by decide +kernel

/-- Out of STARTING; in STARTING, the last first write awaited, another still awaited, and zero records unanswered. -/
theorem test_met_PostingDrivesIrq :
    let marks (b : Fin 22) (m : Vector BlockMarks 22) : Vector BlockMarks 22 :=
      vset m b { BlockMarks.reset with sinceStarting := true, firstWrite := true }
    let s (n : Nat) : State :=
      { answering (.statusBlock 0) with part := .starting, zeroUnanswered := n, marks := marks 0 State.reset.marks }
    let two : State := { s 0 with marks := marks 21 (s 0).marks }
    (answering (.statusBlock 0)).own.writes = [ownTxn (.statusBlock 0) 64] ∧ (answering (.statusBlock 21)).part ≠ .starting ∧
    (s 0).own.writes = [ownTxn (.statusBlock 0) 64] ∧ ((s 0).statusResponse .error).part = .run ∧
    ((s 1).statusResponse .okay).part = .starting ∧ (two.statusResponse .okay).part = .starting := by decide +kernel

theorem test_met_PartEntersRunWhenAllIsAnswered :
    let s : State := { answering (.statusBlock 3) with
      part := .starting, marks := vset State.reset.marks 3 { BlockMarks.reset with sinceStarting := true, firstWrite := true } }
    (answering .zeroRecord).own.writes = [ownTxn .zeroRecord 64] ∧ s.part = .starting ∧ (s.mark 3).sinceStarting = true ∧
    (∀ j : Fin 22, j ≠ 3 → (s.mark j).firstWrite = false) ∧ s.zeroUnanswered = 0 := by decide +kernel

theorem test_met_OwnWritesAreAnswered_ring_and_row :
    (answering .ringRecord).own.writes = [ownTxn .ringRecord 64] ∧ (answering .tileRow).own.writes = [ownTxn .tileRow 64] := by
  decide +kernel

/-- The first half, and the second half of a BOUNDARY close with no final boundary waiting and with one, and of a FINAL close. -/
theorem test_met_SecondRecordHalfFlipsTheBanks :
    let y (c : CloseKind) (f : Option Nat) : Billet := (withBillet { Billet.reset with
      halvesAnswered := 1, inHand := some (c, 5), finalWaiting := f }).billet 0
    (answering (.billetHalf 0)).own.writes = [ownTxn (.billetHalf 0) 64] ∧
    ((answering (.billetHalf 0)).billet 0).halvesAnswered = 0 ∧
    ((y .boundary none).inHand = some (.boundary, 5) ∧ (y .boundary none).finalWaiting = none) ∧
    (y .boundary (some 9)).finalWaiting = some 9 ∧ (y .final none).inHand = some (.final, 5) := by decide +kernel

/-- A read in mid-row, one that ends its row with another to come and with none; a read of an IDLE slot; a read of a finishing one; an
ERROR to a live one; a read whose engine is busy, and one of a slot that has none outstanding. -/
theorem test_met_RingReadFillsTheTile :
    let x (pos rows : Nat) : Slot := { Slot.cleared with
      state := .copying, readOutstanding := true, rowBytes := 300, rowCount := rows, rowPos := pos }
    let s (pos rows : Nat) : State :=
      { withSlot (windowCells 1) (x pos rows) with own := { Own.reset with reads := [ownTxn (.ringRead 0 0) 256] } }
    (s 43 1).nothingPresented ∧ ((s 43 1).slot 0).state = .copying ∧ ((s 43 1).slot 0).outcome = none ∧
    ((s 43 1).slot 0).rowPos + 256 < 300 ∧ 300 ≤ ((s 44 1).slot 0).rowPos + 256 ∧
    ((s 44 2).slot 0).rowsReturned + 1 < ((s 44 2).slot 0).rowCount ∧
    ((s 44 1).slot 0).rowCount ≤ ((s 44 1).slot 0).rowsReturned + 1 ∧
    (withOwn { Own.reset with engine := [ownTxn .tileRow 8] }).own.engine ≠ [] ∧
    (withOwn { Own.reset with engine := [ownTxn .tileRow 8], reads := [ownTxn (.ringRead 0 0) 256] }).own.reads =
      [ownTxn (.ringRead 0 0) 256] ∧
    (((s 43 1).slot 0).order = 0 ∧ ((s 43 1).slot 0).readOutstanding = true) ∧ (running.slot 0).readOutstanding = false ∧
    256 + (64 + 44) % 4096 ≤ 4096 ∧ 4096 - 4000 % 4096 < 256 ∧ (s 43 1).own.engine = [] ∧ (s 43 1).own.queue.length + (s 43 1).own.waiters.length ≤ 6 ∧
    (s 43 1).waits .evidence = false ∧ (running.slot 0).state = .idle ∧
    ((withSlot [] { x 0 1 with outcome := some .aborted }).slot 0).outcome ≠ none := by
  refine ⟨⟨rfl, rfl⟩, ?_⟩; decide +kernel

theorem test_met_OwnWritesAreAnswered_header :
    let s : State := { withSlot [] { Slot.cleared with state := .copying, outcome := some .complete } with
      own := { Own.reset with writes := [ownTxn (.tileHeader 0) 64] } }
    s.own.writes = [ownTxn (.tileHeader 0) 64] ∧ (s.slot 0).outcome = some .complete ∧ (s.slot 0).state = .copying := by
  decide +kernel

/-- Settings and lines of the example of 8.5, with a last completed line and with none; a slot of the newest row alone. -/
theorem test_met_CopyRangeFollowsTheRing :
    let x := { window [] 3 with ringLines := 1024 }
    2 * ({ globals [] with guardLines := 511 } : Globals).guardLines < x.ringLines ∧ 1000 < x.ringLines ∧ 1023 < x.ringLines ∧
    (let s := withSlot (windowCells 1) { Slot.cleared with state := .queued, rowCount := 17, oldestLine := 16 }
     (s.slot 0).oldestLine < (s.window 0).ringLines ∧ (s.slot 0).rowCount ≤ (s.window 0).ringLines ∧
      s.slotProtects 0 0 15 = true) := by decide +kernel

/-- In PASS with good settings; in STARTING and in RUN. -/
theorem test_met_GlobalEnableMovesThePart_on :
    let s : State := { State.reset with shadow := globalCells }
    s.path.controlInFlight = none ∧ s.part = .pass ∧ s.globalChecks (Memory.write s.shadow 0 1) = true ∧
    running.part ≠ .pass := by decide +kernel

theorem test_met_GlobalEnableMovesThePart_off :
    running.part = .run ∧ running.quiet = true ∧ State.reset.part = .pass ∧
    crossChecks State.reset.shadow (Memory.write State.reset.shadow 0 0) = true ∧ Memory.wf State.reset.shadow = true := by
  decide +kernel

/-- Every clause: arguments at the first value out of range, settings that a check refuses, and states and heads that refuse. -/
theorem test_met_ControlWritesAreRefusedByName :
    let off : State := { State.reset with shadow := [(0x400, 1)] }
    4 ≤ (4 : Byte).toNat ∧ 16 ≤ (16 : Byte).toNat ∧ State.reset.part ≠ .run ∧ (running.settings 0).ok = false ∧
    (running.unit 0).state = .idle ∧ (running.face 0).head.state ≠ .off ∧ (withUnit 1 casting).quiet = false ∧
    State.reset.globalChecks (Memory.write State.reset.shadow 0 1) = false ∧
    (crossChecks off.shadow (Memory.write off.shadow 0 0) = false ∧ Memory.wf off.shadow = true) ∧
    (running.windowEnabled 0 = false ∧ running.enableChecks (Memory.write running.shadow 0x400 1) 0 = false) ∧
    (filterEnabled (withShadow [(0xE01, 3)]).shadow 0 = false ∧ 2 < ((withShadow [(0xE01, 3)]).filter 0).action) ∧
    1023 < (1024 : BitVec 16).toNat ∧ Memory.wf running.shadow = true ∧
    (running.ring.put + 1024 - running.getIndex) % 1024 < (running.ring.put + 1024 - (1 : BitVec 16).toNat) % 1024 ∧
    ({ running with part := .starting } : State).part = .starting := by decide +kernel

theorem test_met_WindowEnableAndDisableSetTheFace_enable :
    let s := withShadow (globalCells ++ (windowCells 1).tail)
    s.windowEnabled 0 = false ∧ s.enableChecks (Memory.write s.shadow 0x400 1) 0 = true ∧ Memory.wf s.shadow = true ∧
    (withShadow (windowCells 1)).windowEnabled 0 = true := by decide +kernel

theorem test_met_WindowEnableAndDisableSetTheFace_disable :
    let s := withShadow (windowCells 1)
    s.nothingPresented ∧ s.windowEnabled 0 = true ∧ (∀ i t, s.track i = some t → t.face ≠ (s.window 0).channel) ∧
    (∀ i : Fin 4, (s.slot i).live = true → (s.slot i).window ≠ 0) ∧ s.path.held = [] ∧ running.windowEnabled 0 = false :=
  ⟨⟨rfl, rfl⟩, by decide +kernel, noTrack _ rfl _, by decide +kernel, by decide +kernel, by decide +kernel⟩

/-- A disabled entry of the greatest and of a bad Action, and an enabled entry. -/
theorem test_met_ShadowBytesAreTaken_filter :
    filterEnabled (withShadow [(0xE01, 2)]).shadow 0 = false ∧ ((withShadow [(0xE01, 2)]).filter 0).action ≤ 2 ∧
    2 < ((withShadow [(0xE01, 3)]).filter 0).action ∧ filterEnabled (withShadow [(0xE00, 1)]).shadow 0 = true ∧
    Memory.wf (withShadow [(0xE01, 2)]).shadow = true := by decide +kernel

/-- In PASS the greatest get index; in RUN the put index itself. -/
theorem test_met_ShadowBytesAreTaken_words :
    (1023 : BitVec 16).toNat ≤ 1023 ∧ State.reset.part = .pass ∧
    (let s : State := { running with ring := { Ring.reset with put := 7 } }
     (s.ring.put + 1024 - (7 : BitVec 16).toNat) % 1024 ≤ (s.ring.put + 1024 - s.getIndex) % 1024) := by decide +kernel

theorem test_met_ActionsTakeEffect_restart :
    ((withHead { state := .off, errors := 256, warning := true, goodRun := 0 }).face 0).head.state = .off := by decide +kernel

/-- A SET flag with the view INACTIVE and ACTIVE; a pending cause named. -/
theorem test_met_ActionsTakeEffect :
    running.resetLow = false ∧ running.path.controlInFlight = none ∧
    ((withUnit 1 { casting with viewFlag := .set }).unit 0).viewFlag = .set ∧ (1 : Byte).getLsbD (0 : Fin 4).val = true ∧
    ({ running with causes := { Causes.clear with pending := 1 } } : State).causes.pending &&& (1 : BitVec 16).setWidth 14 ≠ 0 := by
  decide +kernel

/-- The first and the last byte of strand 0's entry, IDLE and CASTING; a channel not fed and one fed; the second and the last byte of an
enabled window, of an enabled filter entry, and of the Global Settings with Global Enable 1. -/
theorem test_met_SettingsAreMergedOrLocked :
    (Instr.controlPageSettingsWrite 0xC00 [1] [true]).wellFormed = true ∧ 0xC00 ≤ (0xC7F : BitVec 14).toNat ∧
    (0xC7F : BitVec 14).toNat + 1 ≤ 0xC80 ∧ (running.unit 0).state = .idle ∧ ((withUnit 1 casting).unit 0).state ≠ .idle ∧
    running.feeding 0 = none ∧ ((withShadow (windowCells 1)).feeding 0).isSome = true ∧ [true].any id = true ∧
    (withShadow (windowCells 1)).windowEnabled 0 = true ∧ (0x401 : BitVec 14).toNat ≠ 0x400 ∧ (0x43F : BitVec 14).toNat + 1 ≤ 0x440 ∧
    filterEnabled (withShadow [(0xE00, 1)]).shadow 0 = true ∧ (0xE0F : BitVec 14).toNat + 1 ≤ 0xE10 ∧
    (withShadow [(0, 1)]).globals.enable = 1 ∧ (0xFF : BitVec 14).toNat + 1 ≤ 0x100 ∧
    running.checkControl [(0xC00, 1)] = none ∧ (withUnit 1 casting).checkControl [(0xC00, 1)] = some .entryLocked := by
  decide +kernel

/-- The invariant holds of a state in RUN with one unit casting, as SettingsAreMergedOrLocked asks. -/
theorem test_met_SettingsAreMergedOrLocked_invariant : (withUnit 1 casting).Inv :=
  inv_of _ casting ⟨by decide, by decide, by decide⟩ (by decide +kernel) (by decide) rfl rfl rfl rfl rfl rfl rfl

/-- A strand that is IDLE; a line at the travel, at the last boundary, one below it, and at MinStep after the last line. -/
theorem test_met_LineIsAdmittedSkippedOrLate :
    let m (p : Nat) : Face := { Face.reset with
      model := { Model.reset with state := .ready, lastStamp := some p }, head := { Head.reset with state := .active } }
    let s (p : Nat) : State := { withUnit 1 { casting with lastBoundary := 10 } with faces := vset State.reset.faces 0 (m p) }
    (running.unit 0).state = .idle ∧ (s 10).part = .run ∧ ((s 10).unit 0).state = .casting ∧
    ((s 10).face 0).model.state = .ready ∧ ((s 10).face 0).head.state = .active ∧ 1000 ≤ ((s 10).unit 0).travel ∧
    9 < ((s 10).unit 0).lastBoundary ∧ ((s 10).unit 0).lastBoundary ≤ 10 ∧
    10 + ((s 10).settings 0).minStep ≤ 10 ∧ ¬11 + ((s 11).settings 0).minStep ≤ 10 := by decide +kernel

/-- A READY model, one that the line brings to READY, and one that it does not; 31 results queued and 32. -/
theorem test_met_LineResultJoinsOrIsDropped :
    let l := aLine []
    let m (n : Nat) : Model := { Model.reset with state := .warmUp, warmUp := n }
    ({ Model.reset with state := .ready } : Model).state = .ready ∧ ((m 31).process 20 l).1.state = .ready ∧
    ((m 30).process 20 l).1.state ≠ .ready ∧
    resultsQueued (withQueue (.boundary 0 5 :: List.replicate 31 (.result (aResult [])))).lineQueue < 32 ∧
    32 ≤ resultsQueued (withQueue (List.replicate 32 (.result (aResult [])))).lineQueue := by decide +kernel

/-- The first line of a warm-up, the line that ends one, and a line with more than 16 runs beside one with 16. -/
theorem test_met_LineTeachesTheModel :
    let dark (n : Nat) : Line :=
      aLine ((List.range (2 * n)).map fun i => List.replicate 8 (if i % 2 = 0 then 10 else 100))
    let m : Model := { Model.reset with state := .warmUp, warmUp := 31, background := Vector.replicate 512 25600 }
    ({ Model.reset with state := .warmUp } : Model).warmUp = 0 ∧ (m.process 20 (dark 16)).1.state = .ready ∧
    (m.runs 20 (dark 16)).length = 16 ∧ (m.runs 20 (dark 17)).length = 17 := by decide +kernel

/-- A lock at the edge of the tolerance, and a candidate one beyond; a duplicate, a hit and a stray at their edges. -/
theorem test_met_ObservationsFollowTheRhythm :
    let p : Predictor := { Predictor.reset with state := .seeking, pitch := 25600, candidate := some 1000 }
    let q : Predictor := { Predictor.reset with state := .coasting, pitch := 25600, lastMark := 1000, nextMark := 1100 }
    (p.observe 6 1106).state = .locked ∧ (p.observe 6 1107).candidate = some 1107 ∧
    (q.observe 6 1006).duplicates = 1 ∧ (q.observe 6 1094).hits = 1 ∧ (q.observe 6 1107).strays = 1 ∧
    (Predictor.reset.observe 6 5).observations = 0 := by decide +kernel

/-- A hit of entry 0, no hit; an alert at the least severity that qualifies, and none with AlertSeverity 0. -/
theorem test_met_FindingIsFilteredAlertedAndHeld_filter_and_alert :
    filterEnabled (withShadow [(0xE00, 1)]).shadow 0 = true ∧ ((withShadow [(0xE00, 1)]).filter 0).mask = 0 ∧
    filterEnabled running.shadow 0 = false ∧ qualifies 1 1 = true ∧ qualifies 3 3 = true ∧ qualifies 3 2 = false ∧
    qualifies 0 3 = false ∧ (running.settings 0).alertSeverity = 0 := by decide +kernel

/-- A pool with every entry free, and one with all 256 held. -/
theorem test_met_FindingIsFilteredAlertedAndHeld_pool (f : Finding) :
    State.reset.freeEntry = some 0 ∧
    ∀ n, n < 256 → ∃ k, ∃ e ∈ ((withBillet { Billet.reset with
      holdList := (List.range 256).map fun i => { number := i, finding := f } }).billet k).holdList, e.number = n := by
  refine ⟨by decide +kernel, fun n h => ⟨0, { number := n, finding := f }, ?_, rfl⟩⟩
  have e : ((withBillet { Billet.reset with
      holdList := (List.range 256).map fun i => { number := i, finding := f } }).billet 0).holdList =
      (List.range 256).map fun i => { number := i, finding := f } := rfl
  rw [e]
  exact List.mem_map.2 ⟨n, List.mem_range.2 h, rfl⟩

/-- Evidence off; on with no tile and with one; every slot taken with one that the request may pre-empt, and with none. -/
theorem test_met_CopyRequestIsAnswered :
    let on : State := withShadow [(0x01, 1)]
    let one : State := withShadow [(0x01, 1), (0x03, 1)]
    let x : Slot := { Slot.cleared with state := .queued, poolEntry := some 0, severity := 2 }
    let full (v : Slot) : State := { on with evidence := { on.evidence with
      slots := vset (Vector.replicate 4 { x with state := .copying }) 2 v } }
    running.globals.evidenceEnable ≠ 1 ∧ on.globals.evidenceEnable = 1 ∧ (on.slot 0).state = .idle ∧
    on.globals.tileCount = 0 ∧ one.globals.evidenceEnable = 1 ∧ one.globals.tileCount = 1 ∧ one.tile 0 = .free ∧
    (∀ i : Fin 4, ((full x).slot i).state ≠ .idle) ∧ ((full x).slot 2).state = .queued ∧
    ((full x).slot 2).severity < aRequest.severity ∧ (∀ j : Fin 4, ((full x).slot j).state = .queued → j = 2) ∧
    ∀ i : Fin 4, ((full { x with severity := 3 }).slot i).state = .queued →
      ¬((full { x with severity := 3 }).slot i).severity < aRequest.severity := by decide +kernel

/-- A slot that the engine may choose, beside one of equal severity and higher queue order, with none COPYING. -/
theorem test_met_CopyRequestIsAnswered_choice :
    let x : Slot := { Slot.cleared with state := .queued, order := 7 }
    let s : State := { running with evidence := { Evidence.reset with
      slots := vset (vset Evidence.reset.slots 1 { x with order := 8 }) 3 x } }
    (∀ j : Fin 4, (s.slot j).state ≠ .copying) ∧ (s.slot 3).state = .queued ∧ (s.slot 3).outcome = none ∧
    ∀ j : Fin 4, (s.slot j).state = .queued → j ≠ 3 → (s.slot 3).order < (s.slot j).order := by decide +kernel

/-- Commands after which a published field of block 0, of block 1, of a strand and of a face differs; one after which block 0 has
been written, and one after which it is left with no place of the Own Traffic Queue. -/
theorem test_met_PublishedChangesAreNoted :
    (∃ t, exec (.causeEnableMaskWrite 1) running = .next t ∧ (t.mark 0).sequence ≠ (running.mark 0).sequence) ∧
    (let s := withOwn { Own.reset with queue := List.replicate 8 (ownTxn .tileRow 8) }
     ∃ t, exec (.causeEnableMaskWrite 1) s = .next t ∧ (t.mark 0).dirty = true ∧ (t.mark 0).outstanding = false ∧
      t.own.waiters = [(.statusWriter, 1)]) ∧
    (∃ t, exec (.causeEnableMaskWrite 1) running = .next t ∧ running.causeMask ≠ t.causeMask) ∧
    (∃ t, exec (.ringGetIndexWrite 7) State.reset = .next t ∧ State.reset.partPublished ≠ t.partPublished) ∧
    (∃ t, exec (.cutLineEdge 0) (withUnit 1 casting) = .next t ∧
      ((withUnit 1 casting).strand 0).published ≠ (t.strand 0).published) ∧
    ∃ t, exec (.headRestart 0) (withHead { Head.reset with state := .off, errors := 256 }) = .next t ∧
      ((withHead { Head.reset with state := .off, errors := 256 }).face 0).published ≠ (t.face 0).published :=
  ⟨⟨_, rfl, by decide +kernel⟩, ⟨_, rfl, by decide +kernel⟩, ⟨_, rfl, by decide +kernel⟩, ⟨_, rfl, by decide +kernel⟩,
    ⟨_, rfl, by decide +kernel⟩, ⟨_, rfl, by decide +kernel⟩⟩

end Sys2Proof.Tests
end

-- ==== The memory path: refusals at arrival (R4, R6) and grants (R9, R17) ====
section
/-!
PROOFS. An arrival that is refused, and the arbiter's grants (01_the_memory_path.md). Each shared operation has its equation
first; the two statements are assembled from these.
-/
namespace Sys2Proof.Machine

/-! ### A refusal and the record that joins with it (R6) -/

/-- A cause raised is the cause pending, but for marks (R182). -/
theorem State.raise_eq_withCause (s : State) (c : Cause) : ∃ m, s.raise c = { s.withCause c with marks := m } := by
  have same := (State.Settles.raise s c).same
  unfold State.raise at same ⊢
  split
  · next h => exact ⟨s.marks, by rwa [if_pos h] at same⟩
  · exact ⟨_, rfl⟩

/-- A refusal is the last-refusal record and cause REFUSED, but for marks (R6). -/
theorem State.refuse_eq_withCause (s : State) (r : Reason) (a : Addr) :
    ∃ m, s.refuse r a =
      { { s with path := { s.path with refusalReason := r, refusalAddr := a } }.withCause .refused with marks := m } := by
  obtain ⟨m, h⟩ := State.raise_eq_withCause { s with path := { s.path with refusalReason := r, refusalAddr := a } } .refused
  unfold State.refuse
  rw [h]
  exact ⟨_, rfl⟩

/-- A refusal whose REFUSED record joins the table, its response returned where it can be (R6, R7). -/
theorem State.Settles.refuseArrival (s : State) (r : Reason) (a : Addr) (x : Rec) :
    (s.opened.afterRefusal r a x).Settles (((s.opened.refuse r a).joinTable x).returnResponses) := by
  obtain ⟨m, h⟩ := s.opened.refuse_eq_withCause r a
  rw [h]
  exact .ofMarks (s.opened.afterRefusal r a x) m

/-! ### Arrivals with ID OWNID (R4) -/

theorem State.arriveRead_ownId (s : State) (r : PresentedRead) (h : r.id = s.ownId) :
    s.arriveRead r = (s.refuse .ownId r.addr).joinTable
      (r.toRec s.path.nextSeq .refused [] (s.lookup r.addr.toNat) (some (.error, zeroBytes r.count))) := if_pos h

/-- The OWNID test comes before every other (R3). -/
theorem State.writeRefusal_ownId (s : State) (x : PresentedWrite) (h : x.id = s.ownId) :
    s.writeRefusal x = some .ownId := if_pos h

/-- A write that a test of its arrival refuses. -/
theorem State.arriveWrite_refused (s : State) (x : PresentedWrite) (r : Reason) (h : s.writeRefusal x = some r) :
    s.arriveWrite x = (s.refuse r x.addr).joinTable
      (x.toRec s.path.nextSeq .refused [] (s.lookup x.addr.toNat) none false (some (.error, []))) := by
  unfold State.arriveWrite
  rw [h]

/-- A well-formed read is presented at the S-port. -/
theorem exec_systemReadArrival (id : Id) (addr : Addr) (count : Nat) (s : State)
    (hw : (Instr.systemReadArrival id addr count).wellFormed = true) :
    exec (.systemReadArrival id addr count) s =
      .next (s.event fun t => t.presentRead { id := id, addr := addr, count := count }) := if_pos hw

/-- A well-formed write is presented at the S-port. -/
theorem exec_systemWriteArrival (id : Id) (addr : Addr) (data : List Byte) (strobes : List Bool) (s : State)
    (hw : (Instr.systemWriteArrival id addr data strobes).wellFormed = true) :
    exec (.systemWriteArrival id addr data strobes) s =
      .next (s.event fun t => t.presentWrite { id := id, addr := addr, data := data, strobes := strobes }) := if_pos hw

/-! ### The arbiter's rows (R17) -/

/-- With nothing to grant nothing changes. -/
theorem State.arbitrate_none (s : State) (hf : s.path.forwarding = []) (ho : s.own.queue = []) : s.arbitrate = s := by
  simp [State.arbitrate, hf, ho]

/-- The forwarding queue is granted against an empty Own Traffic Queue, and against one that has waited through fewer than 16
forwarded grants. -/
theorem State.arbitrate_forwarded (s : State) (hf : s.path.forwarding ≠ [])
    (ho : s.own.queue = [] ∨ s.own.waitCount < Config.ownWaitLimit) :
    s.arbitrate = s.grantForwarded.setWaitCount (if s.own.queue = [] then 0 else s.own.waitCount + 1) := by
  unfold State.arbitrate
  rw [if_neg (by simpa using hf)]
  by_cases he : s.own.queue = []
  · simp [he]
  · simp [he, ho.resolve_left he]

/-- The Own Traffic Queue is granted against an empty forwarding queue, and against any once it has waited through 16 forwarded
grants. -/
theorem State.arbitrate_own (s : State) (ho : s.own.queue ≠ [])
    (hf : s.path.forwarding = [] ∨ Config.ownWaitLimit ≤ s.own.waitCount) :
    s.arbitrate = s.grantOwn.setWaitCount 0 := by
  unfold State.arbitrate
  by_cases he : s.path.forwarding = []
  · simp [he, ho]
  · simp [he, ho, Nat.not_lt.mpr (hf.resolve_left he)]

/-! ### What a grant takes out (R9, R15, R16) -/

/-- Fixing the targets at the first grant does not move the piece granted: it goes out where its target resolves now (R9). -/
theorem State.resolve_granted (s : State) {l : List Piece} {i : Nat} {p : Piece} (h : l[i]? = some p)
    (f : Addr → Nat → Issued) :
    ((if i = 0 then s.fixPieces l else l)[i]?).map (fun p => f (s.resolve p.target) p.count) =
      some (f (s.resolve p.target) p.count) := by
  split
  · simp [State.fixPieces, h, State.resolve]
  · simp [h]

/-- The head of the forwarding queue is granted: its piece goes out on the M-port. -/
theorem State.grantForwarded_cons (s : State) {q i : Nat} {rest : List (Nat × Nat)} {r : Rec} {p : Piece}
    (hf : s.path.forwarding = (q, i) :: rest) (hr : s.record q = some r) (hp : r.pieces[i]? = some p) :
    s.grantForwarded =
      { s with path := { s.path with
          forwarding := rest
          issued := s.path.issued ++ [(q, i)]
          mport := some (r.issue (s.resolve p.target) p.count)
          table := s.path.table.map fun x =>
            if x.seq = q then
              { x with
                pieces := if i = 0 then s.fixPieces r.pieces else r.pieces
                disposition := if i + 1 = r.pieces.length then .forwarded else x.disposition }
            else x } } := by
  unfold State.grantForwarded
  rw [hf]
  dsimp only
  rw [hr]
  dsimp only
  rw [State.resolve_granted s hp r.issue]
  rfl

/-- The head of the Own Traffic Queue is granted: it goes out on the M-port and is outstanding in its kind. -/
theorem State.grantOwn_cons (s : State) {t : OwnTxn} {rest : List OwnTxn} (ho : s.own.queue = t :: rest) :
    s.grantOwn =
      { s with
        own := { s.own with
          queue := rest
          reads := if t.tag.isRead then s.own.reads ++ [t] else s.own.reads
          writes := if t.tag.isRead then s.own.writes else s.own.writes ++ [t] }
        path := { s.path with mport := some (s.ownIssue t) } } := by
  unfold State.grantOwn
  rw [ho]

/-! ### Where a piece goes (R9) -/

/-- Bank A of strand k's view lies at 0x8000 + k × 0x200, bank B 0x100 above it. -/
theorem State.bankBase_eq (s : State) (k : Fin 4) (b : Bank) :
    s.bankBase k b = s.ctlBase + 0x8000 + k.val * 0x200 + (if b = .bankA then 0 else 0x100) := by
  cases b <;> rfl

/-- A view piece reads the bank published now. -/
theorem State.resolve_view (s : State) (k : Fin 4) (offset : Nat) : s.resolve (.view k offset) =
    BitVec.ofNat 40 (s.ctlBase + 0x8000 + k.val * 0x200 +
      (if (s.billet k).published = .bankA then 0 else 0x100) + offset) :=
  congrArg (fun base => BitVec.ofNat 40 (base + offset)) (s.bankBase_eq k _)

end Sys2Proof.Machine

open Sys2Proof Sys2Proof.Machine

/-! ### The statements -/

/-- Settles O8: the OWNID test is the first of each arrival, and what it refuses is recorded by R6's mechanism. -/
theorem ownIdIsRefused : Obligations.OwnIdIsRefused := by
  refine ⟨fun s addr count hl ⟨hr, hw⟩ ht wf => ?_, fun s addr data strobes hl ⟨hr, hw⟩ ⟨ht, hh, hc⟩ wf => ?_⟩
  · refine .of_event_settles (exec_systemReadArrival _ _ _ s wf) hl ?_
    rw [State.presentRead_ready s.opened _ hr hw ht, State.arriveRead_ownId s.opened _ rfl]
    exact .refuseArrival s _ _ _
  · refine .of_event_settles (exec_systemWriteArrival _ _ _ _ s wf) hl ?_
    rw [State.presentWrite_ready s.opened ⟨s.ownId, addr, data, strobes⟩ hr hw ht hh hc,
      State.arriveWrite_refused s.opened _ _ (State.writeRefusal_ownId s.opened _ rfl)]
    exact .refuseArrival s _ _ _

/-- Settles O15: a grant is one event, and each row of R17 has its equation above. -/
theorem grantFollowsTheArbiterTable : Obligations.GrantFollowsTheArbiterTable := by
  refine ⟨fun s hl hf ho => ?nothing, fun s q i rest r p hl hf hr hp ho => ?forwarded,
    fun s t rest hl ho hf => ?own, rfl, fun s => ⟨fun _ => rfl, s.resolve_view, fun _ => rfl⟩⟩
  case nothing => exact .of_event rfl hl (State.arbitrate_none s.opened hf ho)
  case forwarded =>
    have hne : s.opened.path.forwarding ≠ [] := by simp [hf]
    refine .of_event rfl hl ?_
    rw [State.arbitrate_forwarded s.opened hne ho, State.grantForwarded_cons s.opened hf hr hp]
    rfl
  case own =>
    have hne : s.opened.own.queue ≠ [] := by simp [ho]
    refine .of_event rfl hl ?_
    rw [State.arbitrate_own s.opened hne hf, State.grantOwn_cons s.opened ho]
    rfl

end

-- ==== The Surface Model: the runs of a line (R76, R77) ====
section
/-!
PROOFS. The runs that a line's contrasts make (04_surface_model_and_line_results.md): the scan of `segmentsFrom` keeps the runs
of the cells behind it, with the run that the last cell left open.
-/
namespace Sys2Proof.Machine

/-! ### Contrast (R76) -/

/-- The contrast of a line's cell by its cell number. -/
def Model.cellContrast (l : Line) (m : Model) (c : Nat) : Nat :=
  contrast (m.background.getD c 0) (cellMinimum (l.cells.getD (c - l.firstCell) []))

/-- The contrasts are those of the face's cells, FirstCell first. -/
theorem Model.contrasts_eq_range (l : Line) (m : Model) :
    m.contrasts l = (List.range' l.firstCell l.cells.length).map (m.cellContrast l) := by
  refine List.ext_getElem (by simp [Model.contrasts]) fun i hi _ => ?_
  have hc : i < l.cells.length := by simpa [Model.contrasts] using hi
  simp [Model.contrasts, Model.cellContrast, hc]

theorem cellMinimum_eq (l : List Byte) : cellMinimum l = (l.map (·.toNat)).foldl min 255 :=
  List.foldl_map.symm

/-- The contrast of the i-th cell of the face, written out. -/
theorem Model.cellContrast_add (l : Line) (m : Model) (i : Nat) :
    m.cellContrast l (l.firstCell + i) =
      m.background.getD (l.firstCell + i) 0 / 256 - ((l.cells.getD i []).map (·.toNat)).foldl min 255 := by
  rw [Model.cellContrast, cellMinimum_eq, Nat.add_sub_cancel_left]
  rfl

/-! ### The scan (R77) -/

/-- The open run after a hot cell. -/
def extendRun (cell c : Nat) : Option Segment → Segment
  | none => { first := cell, last := cell, peak := c }
  | some g => { g with last := cell, peak := max g.peak c }

theorem segmentsFrom_nil (t cell : Nat) (run : Option Segment) : segmentsFrom t cell run [] = run.toList := by
  cases run <;> rfl

theorem segmentsFrom_hot {t cell c : Nat} (run : Option Segment) (rest : List Nat) (h : t ≤ c) :
    segmentsFrom t cell run (c :: rest) = segmentsFrom t (cell + 1) (some (extendRun cell c run)) rest := by
  cases run <;> exact if_pos h

theorem segmentsFrom_cold {t cell c : Nat} (run : Option Segment) (rest : List Nat) (h : c < t) :
    segmentsFrom t cell run (c :: rest) = run.toList ++ segmentsFrom t (cell + 1) none rest := by
  cases run <;> exact if_neg (Nat.not_le.mpr h)

/-! ### What a run is -/

/-- A segment of hot cells that carries their greatest contrast. -/
structure Segment.IsRun (t : Nat) (con : Nat → Nat) (g : Segment) : Prop where
  nonempty : g.first ≤ g.last
  hot : ∀ c, g.first ≤ c → c ≤ g.last → t ≤ con c
  peak_ge : ∀ c, g.first ≤ c → c ≤ g.last → con c ≤ g.peak
  peak_mem : ∃ c, g.first ≤ c ∧ c ≤ g.last ∧ con c = g.peak

/-- The runs of the cells from a on and below b: each a run among them, no two touching, every hot cell in one. -/
structure RunsBetween (t : Nat) (con : Nat → Nat) (a b : Nat) (runs : List Segment) : Prop where
  each : ∀ g ∈ runs, g.IsRun t con ∧ a ≤ g.first ∧ g.last < b
  apart : runs.Pairwise fun g h => g.last + 1 < h.first
  complete : ∀ c, a ≤ c → c < b → t ≤ con c → ∃ g ∈ runs, g.first ≤ c ∧ c ≤ g.last

section
variable {t : Nat} {con : Nat → Nat}

/-- Runs on both sides of a cell that is not hot do not touch. -/
theorem RunsBetween.append_cold {a m b : Nat} {rs ts : List Segment} (hr : RunsBetween t con a m rs) (cold : con m < t)
    (ht : RunsBetween t con (m + 1) b ts) (hm : m < b) (ha : a ≤ m) : RunsBetween t con a b (rs ++ ts) where
  each g hg := by
    rcases List.mem_append.mp hg with hg | hg
    · obtain ⟨run, low, high⟩ := hr.each g hg
      exact ⟨run, low, by omega⟩
    · obtain ⟨run, low, high⟩ := ht.each g hg
      exact ⟨run, by omega, high⟩
  apart := by
    refine List.pairwise_append.mpr ⟨hr.apart, ht.apart, fun g hg h hh => ?_⟩
    obtain ⟨-, -, high⟩ := hr.each g hg
    obtain ⟨-, low, -⟩ := ht.each h hh
    omega
  complete c low high hot := by
    rcases Nat.lt_trichotomy c m with hc | rfl | hc
    · obtain ⟨g, hg, within⟩ := hr.complete c low hc hot
      exact ⟨g, List.mem_append_left _ hg, within⟩
    · omega
    · obtain ⟨g, hg, within⟩ := ht.complete c hc high hot
      exact ⟨g, List.mem_append_right _ hg, within⟩

/-- A cell of the stretch is hot exactly when it lies in a run. -/
theorem RunsBetween.hot_iff {a b : Nat} {runs : List Segment} (h : RunsBetween t con a b runs) {c : Nat} (low : a ≤ c)
    (high : c < b) : t ≤ con c ↔ ∃ g ∈ runs, g.first ≤ c ∧ c ≤ g.last :=
  ⟨h.complete c low high, fun ⟨g, hg, first, last⟩ => (h.each g hg).1.hot c first last⟩

/-! ### The run left open -/

/-- The run open at a cell, where there is one, ends just below it. -/
def OpenRun (t : Nat) (con : Nat → Nat) (cell : Nat) (run : Option Segment) : Prop :=
  ∀ g ∈ run, g.IsRun t con ∧ g.last + 1 = cell

/-- The first cell whose run is not settled yet. -/
def runStart (cell : Nat) (run : Option Segment) : Nat := (run.map (·.first)).getD cell

theorem OpenRun.start_le {cell : Nat} {run : Option Segment} (h : OpenRun t con cell run) : runStart cell run ≤ cell := by
  cases run with
  | none => exact Nat.le_refl _
  | some g =>
    obtain ⟨isRun, last⟩ := h g rfl
    exact Nat.le_trans isRun.nonempty (by omega)

/-- An open run is all the runs from its first cell on. -/
theorem OpenRun.runsBetween {cell : Nat} {run : Option Segment} (h : OpenRun t con cell run) :
    RunsBetween t con (runStart cell run) cell run.toList := by
  cases run with
  | none => exact ⟨by simp, .nil, fun c low high => absurd (Nat.lt_of_le_of_lt low high) (Nat.lt_irrefl _)⟩
  | some g =>
    obtain ⟨isRun, last⟩ := h g rfl
    refine ⟨fun x hx => ?_, List.pairwise_singleton _ _, fun c low high _ => ⟨g, by simp, low, by omega⟩⟩
    obtain rfl : x = g := by simpa using hx
    exact ⟨isRun, Nat.le_refl _, by omega⟩

theorem runStart_extendRun (cell n c : Nat) (run : Option Segment) :
    runStart n (some (extendRun cell c run)) = runStart cell run := by
  cases run <;> rfl

/-- A hot cell opens a run or extends the open one. -/
theorem OpenRun.extend {cell : Nat} {run : Option Segment} (h : OpenRun t con cell run) (hot : t ≤ con cell) :
    OpenRun t con (cell + 1) (some (extendRun cell (con cell) run)) := by
  rintro _ ⟨⟩
  cases run with
  | none =>
    have only (c : Nat) (low : cell ≤ c) (high : c ≤ cell) : c = cell := Nat.le_antisymm high low
    exact ⟨⟨Nat.le_refl _, fun c low high => only c low high ▸ hot, fun c low high => (only c low high ▸ Nat.le_refl _),
      cell, Nat.le_refl _, Nat.le_refl _, rfl⟩, rfl⟩
  | some g =>
    obtain ⟨⟨nonempty, allHot, peak_ge, d, dlow, dhigh, hd⟩, last⟩ := h g rfl
    have old_or_new (c : Nat) (high : c ≤ cell) : c ≤ g.last ∨ c = cell := by omega
    refine ⟨⟨?_, fun c low high => ?_, fun c low high => ?_, ?_⟩, rfl⟩
    · exact Nat.le_trans nonempty (by show g.last ≤ cell; omega)
    · rcases old_or_new c high with old | rfl
      · exact allHot c low old
      · exact hot
    · rcases old_or_new c high with old | rfl
      · exact Nat.le_trans (peak_ge c low old) (Nat.le_max_left _ _)
      · exact Nat.le_max_right _ _
    · rcases Nat.le_total g.peak (con cell) with higher | lower
      · exact ⟨cell, by show g.first ≤ cell; omega, Nat.le_refl _, (Nat.max_eq_right higher).symm⟩
      · exact ⟨d, dlow, by show d ≤ cell; omega, hd.trans (Nat.max_eq_left lower).symm⟩

/-- The scan from a cell on makes the runs of the open run's cells and of the n cells scanned. -/
theorem segmentsFrom_runsBetween (n cell : Nat) (run : Option Segment) (h : OpenRun t con cell run) :
    RunsBetween t con (runStart cell run) (cell + n) (segmentsFrom t cell run ((List.range' cell n).map con)) := by
  induction n generalizing cell run with
  | zero =>
    rw [List.range'_zero, List.map_nil, segmentsFrom_nil]
    exact h.runsBetween
  | succ n ih =>
    rw [List.range'_succ, List.map_cons, Nat.add_comm n 1, ← Nat.add_assoc]
    by_cases hot : t ≤ con cell
    · rw [segmentsFrom_hot _ _ hot, ← runStart_extendRun cell (cell + 1) (con cell) run]
      exact ih _ _ (h.extend hot)
    · have cold := Nat.lt_of_not_le hot
      rw [segmentsFrom_cold _ _ cold]
      exact h.runsBetween.append_cold cold (ih (cell + 1) none (by simp [OpenRun])) (by omega) h.start_le

end

/-- The runs of a line are the runs of the face's cells. -/
theorem Model.runs_between (t : Nat) (l : Line) (m : Model) :
    RunsBetween t (m.cellContrast l) l.firstCell (l.firstCell + l.cells.length) (m.runs t l) := by
  rw [Model.runs, Model.contrasts_eq_range]
  exact segmentsFrom_runsBetween _ _ none (by simp [OpenRun])

end Sys2Proof.Machine

open Sys2Proof Sys2Proof.Machine

/-! ### The statement -/

/-- Settles O48: the scan's runs are the runs of the face's cells, and the statement reads their contrasts by place in the face. -/
theorem runsAreTheHotCells : Obligations.RunsAreTheHotCells := by
  intro t l m con runs
  have h := m.runs_between t l
  have at_place (i : Nat) : m.cellContrast l (l.firstCell + i) = con i := m.cellContrast_add l i
  have at_cell (c : Nat) (hc : l.firstCell ≤ c) : m.cellContrast l c = con (c - l.firstCell) := by
    rw [← at_place, Nat.add_sub_cancel' hc]
  refine ⟨fun i hi => ?_, h.apart, fun g hg => ?_⟩
  · rw [← at_place i]
    exact h.hot_iff (Nat.le_add_right _ _) (Nat.add_lt_add_left hi _)
  · obtain ⟨isRun, low, high⟩ := h.each g hg
    refine ⟨low, isRun.nonempty, high, fun c first last => ?_, ?_⟩
    · rw [← at_cell c (low.trans first)]
      exact isRun.peak_ge c first last
    · obtain ⟨c, first, last, hc⟩ := isRun.peak_mem
      exact ⟨c, first, last, (at_cell c (low.trans first)) ▸ hc⟩

end

-- ==== The Surface Model: what a processed line teaches (R75, R78, R79) ====
section
/-!
PROOFS. The model after a processed line (04_surface_model_and_line_results.md): one equation for the first line of a warm-up
and one for any other, from which the statement reads each field.
-/
namespace Sys2Proof.Machine

/-- The next line processed is the first of a warm-up (R75). -/
def Model.atFirstLine (m : Model) : Prop := m.state = .warmUp ∧ m.warmUp = 0

/-- A cell of the face that a line carries. -/
def Line.inFace (l : Line) (c : Fin 512) : Prop := l.firstCell ≤ c.val ∧ c.val < l.firstCell + l.cells.length

/-- The mean of a face cell of a line, by its cell number. -/
def Line.meanAt (l : Line) (c : Fin 512) : Nat := cellMean (l.cells.getD (c.val - l.firstCell) [])

/-- A cell lies in a segment of the list. -/
def inSegments (gs : List Segment) (c : Nat) : Prop := ∃ g ∈ gs, g.first ≤ c ∧ c ≤ g.last

/-! ### The background's cells (R75, R78) -/

theorem Model.vget_mapBackground_inFace {l : Line} {c : Fin 512} (f : Nat → Nat → Nat → Nat) (m : Model)
    (h : l.inFace c) : vget (m.mapBackground l f) c = f c.val (vget m.background c) (l.meanAt c) := by
  simp [Model.mapBackground, Line.meanAt, h.1, h.2]

theorem Model.vget_mapBackground_outside {l : Line} {c : Fin 512} (f : Nat → Nat → Nat → Nat) (m : Model)
    (h : ¬l.inFace c) : vget (m.mapBackground l f) c = vget m.background c := by
  rw [Model.mapBackground, vget_vtab, if_neg (by simpa [Line.inFace] using h)]

/-- The background that the first line of a warm-up makes: each face cell's mean (R75). -/
def Model.firstBackground (l : Line) (m : Model) : Vector Nat 512 := m.mapBackground l fun _ _ mean => mean

theorem Model.vget_firstBackground_inFace {l : Line} {c : Fin 512} (m : Model) (h : l.inFace c) :
    vget (m.firstBackground l) c = l.meanAt c :=
  Model.vget_mapBackground_inFace _ m h

theorem Model.vget_firstBackground_outside {l : Line} {c : Fin 512} (m : Model) (h : ¬l.inFace c) :
    vget (m.firstBackground l) c = vget m.background c :=
  Model.vget_mapBackground_outside _ m h

/-- The background moved by a line that is not NOISY, with its segments given (R78). -/
def Model.movedBackground (l : Line) (gs : List Segment) (m : Model) : Vector Nat 512 :=
  m.mapBackground l fun c old mean =>
    if gs.any fun g => g.first ≤ c && c ≤ g.last then old else moveBackground old mean

theorem Model.vget_movedBackground_kept {l : Line} {gs : List Segment} {c : Fin 512} (m : Model)
    (h : ¬l.inFace c ∨ inSegments gs c.val) : vget (m.movedBackground l gs) c = vget m.background c := by
  by_cases face : l.inFace c
  · have covered := h.resolve_left (not_not.mpr face)
    rw [Model.movedBackground, Model.vget_mapBackground_inFace _ m face, if_pos (by simpa [inSegments] using covered)]
  · exact Model.vget_mapBackground_outside _ m face

theorem Model.vget_movedBackground_moved {l : Line} {gs : List Segment} {c : Fin 512} (m : Model)
    (face : l.inFace c) (free : ¬inSegments gs c.val) :
    vget (m.movedBackground l gs) c = moveBackground (vget m.background c) (l.meanAt c) := by
  rw [Model.movedBackground, Model.vget_mapBackground_inFace _ m face, if_neg (by simpa [inSegments] using free)]

/-! ### A line after the first (R77 to R79) -/

/-- The line's segments: its runs, and none where it is NOISY (R77). -/
def Model.lineSegments (t : Nat) (l : Line) (m : Model) : List Segment :=
  if Config.segmentLimit < (m.runs t l).length then [] else m.runs t l

/-- The background that the line leaves: a NOISY line teaches nothing (R78). -/
def Model.lineBackground (t : Nat) (l : Line) (m : Model) : Vector Nat 512 :=
  if Config.segmentLimit < (m.runs t l).length then m.background else m.movedBackground l (m.lineSegments t l)

/-- The state and the warm-up count that the line leaves (R79). -/
def Model.countLine (m : Model) : ModelState × Nat :=
  if m.state = .warmUp then (if m.warmUp + 1 = Config.warmUpLines then .ready else .warmUp, m.warmUp + 1)
  else (m.state, m.warmUp)

/-! ### The two equations of a processed line (R75 to R79) -/

section
variable {t : Nat} {l : Line} {m : Model}

theorem Model.process_first (h : m.atFirstLine) : m.process t l =
    ({ m with lastStamp := some l.stamp, background := m.firstBackground l, warmUp := 1 }, [], false) :=
  if_pos h

theorem Model.process_later (h : ¬m.atFirstLine) : m.process t l =
    ({ m with
        state := m.countLine.1, warmUp := m.countLine.2, background := m.lineBackground t l
        lastStamp := some l.stamp }, m.lineSegments t l,
      decide (Config.segmentLimit < (m.runs t l).length)) := by
  have later : m.process t l = _ := if_neg h
  rw [later, Model.countLine]
  by_cases warm : m.state = .warmUp
  · rw [if_pos warm, if_pos warm]
    rfl
  · rw [if_neg warm, if_neg warm]
    rfl

/-! ### The background after a line, cell by cell (R78) -/

theorem Model.vget_lineBackground_kept {c : Fin 512}
    (h : Config.segmentLimit < (m.runs t l).length ∨ ¬l.inFace c ∨ inSegments (m.lineSegments t l) c.val) :
    vget (m.lineBackground t l) c = vget m.background c := by
  rw [Model.lineBackground]
  split
  · rfl
  · next quiet => exact m.vget_movedBackground_kept (h.resolve_left quiet)

theorem Model.vget_lineBackground_moved {c : Fin 512} (quiet : ¬Config.segmentLimit < (m.runs t l).length)
    (face : l.inFace c) (free : ¬inSegments (m.lineSegments t l) c.val) :
    vget (m.lineBackground t l) c = moveBackground (vget m.background c) (l.meanAt c) := by
  rw [Model.lineBackground, if_neg quiet]
  exact m.vget_movedBackground_moved face free

end

end Sys2Proof.Machine

open Sys2Proof Sys2Proof.Machine

/-! ### The statement -/

/-- Settles O47: each field is read off the equation of the first line or that of a later one. -/
theorem lineTeachesTheModel : Obligations.LineTeachesTheModel := by
  intro t l m p inFace mean first
  by_cases hf : first
  · have hp : p = _ := Model.process_first hf
    rw [hp]
    refine ⟨rfl, rfl, rfl, fun _ => ⟨rfl, rfl, hf.1, fun c => ?_⟩, fun later => absurd hf later⟩
    exact ⟨m.vget_firstBackground_inFace, m.vget_firstBackground_outside⟩
  · have hp : p = _ := Model.process_later hf
    rw [hp]
    refine ⟨rfl, rfl, rfl, fun first => absurd first hf, fun _ => ⟨rfl, rfl, fun c kept => ?kept,
      fun c quiet face free => ?moved, fun warm => ?warmUp, fun warm => ?settled⟩⟩
    case kept => exact Model.vget_lineBackground_kept (kept.imp_left of_decide_eq_true)
    case moved =>
      exact Model.vget_lineBackground_moved (of_decide_eq_false quiet) face fun ⟨g, hg, within⟩ => free g hg within
    case warmUp => simp [Model.countLine, warm, Config.warmUpLines]
    case settled => simp [Model.countLine, warm]

end

-- ==== The Surface Model: admission (R72, R79 to R82) ====
section
/-!
PROOFS. What becomes of a line that reaches the model (04_surface_model_and_line_results.md): the admission tests as three
conditions, and what an admitted line leaves in the faces.
-/
namespace Sys2Proof.Machine

/-! ### The admission tests (R72) -/

/-- Tests 1 to 5: the part, the strand, the model, the head and the travel. -/
def State.lineUsable (s : State) (k : Fin 16) (stamp : Nat) : Prop :=
  s.part = .run ∧ ((s.unit (strandOf k)).state = .casting ∨ (s.unit (strandOf k)).state = .held) ∧
    ((s.face k).model.state = .warmUp ∨ (s.face k).model.state = .ready) ∧
    ((s.face k).head.state = .active ∨ (s.face k).head.state = .passive) ∧ stamp ≤ (s.unit (strandOf k)).travel

/-- Test 7: MinStep after the last line processed. -/
def State.lineSpaced (s : State) (k : Fin 16) (stamp : Nat) : Prop :=
  ∀ p, (s.face k).model.lastStamp = some p → p + (s.settings (strandOf k)).minStep ≤ stamp

section
variable {s : State} {k : Fin 16} {stamp : Nat}

/-- Test 7 as the model makes it. -/
theorem State.lineSpaced_iff : s.lineSpaced k stamp ↔
    ((s.face k).model.lastStamp.any fun p => stamp < p + (s.settings (strandOf k)).minStep) = false := by
  unfold State.lineSpaced
  cases (s.face k).model.lastStamp <;> simp

/-- A line that fails one of the tests 1 to 5 is skipped. -/
theorem State.admission_unusable (h : ¬s.lineUsable k stamp) : s.admission k stamp = .skipped := by
  unfold State.admission
  dsimp only
  by_cases part : s.part = .run
  swap; · rw [if_pos part]
  by_cases moving : (s.unit (strandOf k)).moving = true
  swap; · simp [moving]
  by_cases model : (s.face k).model.state = .warmUp ∨ (s.face k).model.state = .ready
  swap; · simp [not_or.mp model]
  by_cases head : (s.face k).head.state = .active ∨ (s.face k).head.state = .passive
  swap; · simp [not_or.mp head]
  have travel : (s.unit (strandOf k)).travel < stamp :=
    Nat.lt_of_not_le fun reached => h ⟨part, (StrandUnit.moving_iff _).mp moving, model, head, reached⟩
  simp [travel]

/-- The tests 6 and 7 decide a line that passes the others. -/
theorem State.admission_usable (h : s.lineUsable k stamp) : s.admission k stamp =
    if stamp < (s.unit (strandOf k)).lastBoundary then .late
    else if (s.face k).model.lastStamp.any fun p => stamp < p + (s.settings (strandOf k)).minStep then .skipped
    else .admitted := by
  obtain ⟨part, moving, model, head, travel⟩ := h
  unfold State.admission
  dsimp only
  rw [if_neg (not_not.mpr part), if_neg (by simp [(StrandUnit.moving_iff _).mpr moving]),
    if_neg (fun no => model.elim no.1 no.2), if_neg (fun no => head.elim no.1 no.2), if_neg (Nat.not_lt.mpr travel)]

theorem State.admission_late (h : s.lineUsable k stamp) (low : stamp < (s.unit (strandOf k)).lastBoundary) :
    s.admission k stamp = .late := by
  rw [State.admission_usable h, if_pos low]

theorem State.admission_unspaced (h : s.lineUsable k stamp) (high : (s.unit (strandOf k)).lastBoundary ≤ stamp)
    (soon : ¬s.lineSpaced k stamp) : s.admission k stamp = .skipped := by
  rw [State.admission_usable h, if_neg (Nat.not_lt.mpr high), if_pos (by simpa [State.lineSpaced_iff] using soon)]

theorem State.admission_admitted (h : s.lineUsable k stamp) (high : (s.unit (strandOf k)).lastBoundary ≤ stamp)
    (spaced : s.lineSpaced k stamp) : s.admission k stamp = .admitted := by
  rw [State.admission_usable h, if_neg (Nat.not_lt.mpr high), State.lineSpaced_iff.mp spaced, if_neg Bool.false_ne_true]

end

/-! ### A line that reaches the model, by its admission (R72) -/

section
variable {s : State} {l : Line}

theorem State.lineReaches_skipped (h : s.admission l.face l.stamp = .skipped) : s.lineReaches l =
    s.setCounts l.face { (s.face l.face).counts with skipped := bump (s.face l.face).counts.skipped } := by
  simp only [State.lineReaches, h]

theorem State.lineReaches_late (h : s.admission l.face l.stamp = .late) : s.lineReaches l =
    s.setCounts l.face { (s.face l.face).counts with late := bump (s.face l.face).counts.late } := by
  simp only [State.lineReaches, h]

theorem State.lineReaches_admitted (h : s.admission l.face l.stamp = .admitted) : s.lineReaches l = s.processLine l := by
  simp only [State.lineReaches, h]

end

/-! ### What leaves the faces as they are -/

section
variable (s : State) (j : Fin 16)

@[simp] theorem State.markDirty_face (b : Fin 22) : (s.markDirty b).face j = s.face j := rfl

@[simp] theorem State.raise_face (c : Cause) : (s.raise c).face j = s.face j := by
  unfold State.raise
  split <;> rfl

/-- A coverage notice speaks to the strand (R63). -/
@[simp] theorem State.coverFace_face (k : Fin 16) : (s.coverFace k).face j = s.face j := by
  unfold State.coverFace State.changeUnit
  split <;> rfl

/-! ### What an admitted line leaves in the faces (R79 to R82) -/

/-- An offer leaves every other face as it is. -/
theorem State.offerResult_face_other (r : LineResult) (h : j ≠ r.face) : (s.offerResult r).face j = s.face j := by
  unfold State.offerResult
  dsimp only
  split
  · exact vget_vset_other _ _ _ _ h.symm
  · simp [State.markFace, h.symm]

/-- In the result's own face an offer changes what is queued and dropped (R82). -/
theorem State.offerResult_face_self (r : LineResult) : ∃ q n d, (s.offerResult r).face r.face =
    { s.face r.face with
      queuedCount := q, counts := { (s.face r.face).counts with queued := n, dropped := d } } := by
  unfold State.offerResult
  dsimp only
  split
  · exact ⟨_, _, _, vget_vset_same _ _ _⟩
  · exact ⟨_, _, _, (State.raise_face _ _ _).trans (vget_vset_same _ _ _)⟩

/-- A processed line leaves every other face as it is. -/
theorem State.processLine_face_other (l : Line) (h : j ≠ l.face) : (s.processLine l).face j = s.face j := by
  unfold State.processLine
  dsimp only
  split
  · rw [State.offerResult_face_other _ _ _ h, State.face_setFace, if_neg h.symm]
  · split
    · rw [State.coverFace_face, State.face_setFace, if_neg h.symm]
    · rw [State.face_setFace, if_neg h.symm]

/-- In its own face a processed line teaches the model and is counted admitted; besides, what is NOISY, queued and dropped
changes (R79 to R82). -/
theorem State.processLine_face_self (l : Line) : ∃ q n d y, (s.processLine l).face l.face =
    { s.face l.face with
      model := ((s.face l.face).model.process (s.crackThreshold l.face) l).1
      queuedCount := q
      counts := { (s.face l.face).counts with
        admittedLines := bump (s.face l.face).counts.admittedLines, noisy := y, queued := n, dropped := d } } := by
  unfold State.processLine
  dsimp only
  split
  · obtain ⟨q, n, d, h⟩ := State.offerResult_face_self _ _
    exact ⟨q, n, d, _, h.trans (by rw [State.face_setFace, if_pos rfl])⟩
  · split
    · exact ⟨_, _, _, _, (State.coverFace_face _ _ _).trans (vget_vset_same _ _ _)⟩
    · exact ⟨_, _, _, _, vget_vset_same _ _ _⟩

end

end Sys2Proof.Machine

open Sys2Proof Sys2Proof.Machine

/-! ### The statement -/

/-- Settles O45: the tests decide the admission, and each admission has its equation. -/
theorem lineIsAdmittedSkippedOrLate : Obligations.LineIsAdmittedSkippedOrLate := by
  intro s l k u x usable spaced after
  refine ⟨fun h => ?skipped, fun use low => ?late, fun use high space => ?admitted⟩
  case skipped =>
    have skip : s.admission l.face l.stamp = .skipped := by
      by_cases use : usable
      · obtain ⟨high, soon⟩ := h.resolve_left (not_not.mpr use)
        exact State.admission_unspaced use high soon
      · exact State.admission_unusable use
    exact State.lineReaches_skipped skip
  case late => exact State.lineReaches_late (State.admission_late use low)
  case admitted =>
    have process := State.lineReaches_admitted (State.admission_admitted use high space)
    obtain ⟨q, n, d, y, self⟩ := s.processLine_face_self l
    rw [process]
    refine ⟨rfl, ?_⟩
    intro t
    have own : t.face k = _ := self
    rw [own]
    exact ⟨rfl, rfl, rfl, rfl, fun j hj => s.processLine_face_other j l hj⟩

end

-- ==== The Mark Predictor: oscillation pulses (R116, R117) ====
section
/-!
PROOFS. An oscillation pulse (06_oscillation_mark_predictor.md): what the measurement does, by the row of R117 that it meets; the
pulse by the strand's state; and the command, whose event changes that strand's predictor and nothing else.
-/
namespace Sys2Proof.Machine

section
variable {p : Predictor}

/-! ### The rows of a measurement (R117) -/

/-- With no pulse recorded before it there is nothing to measure. -/
theorem Predictor.takeMeasure_first {lo hi m : Nat} (first : p.pulseValid = false) : p.takeMeasure lo hi m = p := by
  simp [Predictor.takeMeasure, first]

/-- A measurement across a halt is discarded. -/
theorem Predictor.takeMeasure_halted {lo hi m : Nat} (valid : p.pulseValid = true) (halted : p.haltMark = true) :
    p.takeMeasure lo hi m = { p with haltDiscards := bump p.haltDiscards } := by
  simp [Predictor.takeMeasure, valid, halted]

/-- A measurement in the range of the settings enters the pitch. -/
theorem Predictor.takeMeasure_used {lo hi m : Nat} (valid : p.pulseValid = true) (moving : p.haltMark = false)
    (low : lo * 256 ≤ m) (high : m ≤ hi * 256) :
    p.takeMeasure lo hi m = { p with pitch := (3 * p.pitch + m) / 4, pitchUsed := bump p.pitchUsed } := by
  simp [Predictor.takeMeasure, valid, moving, low, high]

/-- A measurement outside the range is rejected. -/
theorem Predictor.takeMeasure_rejected {lo hi m : Nat} (valid : p.pulseValid = true) (moving : p.haltMark = false)
    (out : m < lo * 256 ∨ hi * 256 < m) :
    p.takeMeasure lo hi m = { p with pitchRejected := bump p.pitchRejected } := by
  have outside : ¬(lo * 256 ≤ m ∧ m ≤ hi * 256) := by omega
  simp [Predictor.takeMeasure, valid, moving, outside]

/-! ### A pulse by the strand's state (R116) -/

variable {x : StrandSettings} {travel fraction : Nat}

theorem Predictor.pulse_ignored {strand : StrandState} (h : p.state = .off ∨ strand = .stopping) :
    p.pulse x strand travel fraction = p := by
  unfold Predictor.pulse
  split
  · rfl
  · next on => rw [h.resolve_left on]

theorem Predictor.pulse_held (on : p.state ≠ .off) :
    p.pulse x .held travel fraction = ({ p with pulses := bump p.pulses }).record travel fraction true := if_neg on

/-- In CASTING the pulse is counted and measured, and what the measurement leaves is recorded. -/
theorem Predictor.pulse_casting {q : Predictor} (on : p.state ≠ .off)
    (measured : ({ p with pulses := bump p.pulses }).takeMeasure x.pitchMin x.pitchMax (p.measure travel fraction) = q) :
    p.pulse x .casting travel fraction = q.record travel fraction false :=
  (if_neg on).trans (congrArg (Predictor.record travel fraction false) measured)

/-- With no pulse recorded before it a pulse in CASTING is counted and recorded. -/
theorem Predictor.pulse_casting_first (on : p.state ≠ .off) (first : p.pulseValid = false) :
    p.pulse x .casting travel fraction = ({ p with pulses := bump p.pulses }).record travel fraction false :=
  Predictor.pulse_casting on (Predictor.takeMeasure_first first)

/-- Recorded in motion with no halt before it, a pulse leaves the halt mark as it was. -/
theorem Predictor.record_moving (moving : p.haltMark = false) : p.record travel fraction false =
    { p with pulseTravel := travel, pulseFraction := fraction, pulseValid := true } := by
  rw [← moving]
  rfl

end

/-! ### The command -/

/-- The event of an oscillation pulse is the pulse that the strand's predictor takes, by the travel and the state that the
strand shows it (R54, R116). -/
theorem Answers.oscillationPulse {s : State} (k : Fin 4) (hl : s.resetLow = false) :
    Answers (.oscillationPulse k) s (State.withStrand s.opened k { s.strand k with
      predictor := (s.predictor k).pulse (s.settings k) (s.unit k).state (s.unit k).travel (s.unit k).fraction }) :=
  .of_event_settles rfl hl (.changePredictor s.opened k _)

/-- A strand whose predictor becomes what it is stays what it is. -/
theorem State.withStrand_predictor_self (o : State) (k : Fin 4) :
    State.withStrand o k { o.strand k with predictor := o.predictor k } = o :=
  congrArg (fun v => { o with strands := v }) (vset_vget o.strands k)

end Sys2Proof.Machine

open Sys2Proof Sys2Proof.Machine

/-! ### The statement -/

/-- Settles O29: the event is the pulse, and each case has its equation above. -/
theorem oscillationPulseMeasuresThePitch : Obligations.OscillationPulseMeasuresThePitch := by
  intro s k hl u x p m seen after
  have answer {q : Predictor} (h : p.pulse x u.state u.travel u.fraction = q) : after q := h ▸ .oscillationPulse k hl
  refine ⟨fun ignored => ?ignored, fun on held => answer ?held, fun on casting first => answer ?first,
    fun on casting valid halted => answer ?halted, fun on casting valid moving low high => answer ?used,
    fun on casting valid moving out => answer ?rejected⟩
  case ignored => exact s.opened.withStrand_predictor_self k ▸ answer (Predictor.pulse_ignored ignored)
  case held => exact held ▸ Predictor.pulse_held on
  case first => exact casting ▸ Predictor.pulse_casting_first on first
  case halted => exact casting ▸ Predictor.pulse_casting on (Predictor.takeMeasure_halted valid halted)
  case used =>
    have measured := Predictor.pulse_casting on (Predictor.takeMeasure_used valid moving low high)
    exact casting ▸ measured.trans (Predictor.record_moving moving)
  case rejected =>
    have measured := Predictor.pulse_casting on (Predictor.takeMeasure_rejected valid moving out)
    exact casting ▸ measured.trans (Predictor.record_moving moving)

end

-- ==== The Mark Predictor: observations (R119, R120, R123) ====
section
/-!
PROOFS. An observation (06_oscillation_mark_predictor.md): one equation for each row of R119 and R120, and the mark-window test.
-/
namespace Sys2Proof.Machine

/-- The tolerance test bounds the difference of the two coordinates on both sides. -/
theorem within_iff {tolerance a b : Nat} : within tolerance a b = true ↔
    -(tolerance : Int) ≤ (a : Int) - b ∧ (a : Int) - b ≤ tolerance := by
  simp only [within, Bool.and_eq_true, decide_eq_true_eq]
  omega

section
variable {tolerance c : Nat} {p : Predictor}

theorem Predictor.holding_iff : p.holding = true ↔ p.state = .locked ∨ p.state = .coasting := by
  simp [Predictor.holding]

/-- The mark-window test (R123). -/
theorem Predictor.inWindow_iff : p.inWindow tolerance c = true ↔
    (p.state = .locked ∨ p.state = .coasting) ∧
      (within tolerance c p.lastMark = true ∨ within tolerance c p.nextMark = true) := by
  simp [Predictor.inWindow, Predictor.holding_iff]

/-! ### An observation by the predictor's state -/

theorem Predictor.observe_off (h : p.state = .off) : p.observe tolerance c = p := by
  simp only [Predictor.observe, h]

theorem Predictor.observe_seeking (h : p.state = .seeking) : p.observe tolerance c = p.observeSeeking tolerance c := by
  simp only [Predictor.observe, h]

theorem Predictor.observe_holding (h : p.state = .locked ∨ p.state = .coasting) :
    p.observe tolerance c = p.observeHolding tolerance c := by
  obtain locked | coasting := h
  · simp only [Predictor.observe, locked]
  · simp only [Predictor.observe, coasting]

/-! ### SEEKING (R119) -/

/-- An observation a whole pitch after the candidate locks. -/
theorem Predictor.observeSeeking_locks {d : Nat} (candidate : p.candidate = some d)
    (near : within tolerance c (d + p.wholePitch) = true) :
    p.observeSeeking tolerance c = { p with
      observations := bump p.observations, state := .locked, lastMark := c, nextMark := c + p.wholePitch
      missCount := 0, candidate := none, locks := bump p.locks } := by
  simp only [Predictor.observeSeeking, candidate, near, if_true]

/-- Any other becomes the candidate. -/
theorem Predictor.observeSeeking_candidate
    (far : ∀ d, p.candidate = some d → ¬within tolerance c (d + p.wholePitch) = true) :
    p.observeSeeking tolerance c = { p with observations := bump p.observations, candidate := some c } := by
  cases candidate : p.candidate with
  | none => simp only [Predictor.observeSeeking, candidate]
  | some d => simp only [Predictor.observeSeeking, candidate, if_neg (far d candidate)]

/-! ### LOCKED and COASTING (R120) -/

theorem Predictor.observeHolding_duplicate (last : within tolerance c p.lastMark = true) :
    p.observeHolding tolerance c =
      { p with observations := bump p.observations, duplicates := bump p.duplicates } := if_pos last

theorem Predictor.observeHolding_hit (last : ¬within tolerance c p.lastMark = true)
    (next : within tolerance c p.nextMark = true) :
    p.observeHolding tolerance c = { p with
      observations := bump p.observations, state := .locked, lastMark := c, nextMark := c + p.wholePitch
      missCount := 0, hits := bump p.hits } :=
  (if_neg last).trans (if_pos next)

theorem Predictor.observeHolding_stray (last : ¬within tolerance c p.lastMark = true)
    (next : ¬within tolerance c p.nextMark = true) :
    p.observeHolding tolerance c = { p with observations := bump p.observations, strays := bump p.strays } :=
  (if_neg last).trans (if_neg next)

end

end Sys2Proof.Machine

open Sys2Proof Sys2Proof.Machine

/-! ### The statement -/

/-- Settles O49: the state chooses the table, and each of its rows has its equation above. -/
theorem observationsFollowTheRhythm : Obligations.ObservationsFollowTheRhythm := by
  intro tolerance c p whole near q seen
  refine ⟨Predictor.observe_off, fun seeking => ?seeking, fun holding => ?holding, ?window⟩
  case seeking =>
    have hq : q = p.observeSeeking tolerance c := Predictor.observe_seeking seeking
    rw [hq]
    exact ⟨fun d candidate hit => Predictor.observeSeeking_locks candidate (within_iff.mpr hit),
      fun far => Predictor.observeSeeking_candidate fun d candidate hit => far d candidate (within_iff.mp hit)⟩
  case holding =>
    have hq : q = p.observeHolding tolerance c := Predictor.observe_holding holding
    rw [hq]
    exact ⟨fun last => Predictor.observeHolding_duplicate (within_iff.mpr last),
      fun last next => Predictor.observeHolding_hit (last ∘ within_iff.mp) (within_iff.mpr next),
      fun last next => Predictor.observeHolding_stray (last ∘ within_iff.mp) (next ∘ within_iff.mp)⟩
  case window => exact Predictor.inWindow_iff.trans (and_congr_right' (or_congr within_iff within_iff))

end

-- ==== Every step and the resets: the invariant, totality, R19 ====
section
/-!
PROOFS. What holds of every command: a step runs the front command, keeps the invariant and answers; and the two resets (R19).
Every command but the resets is one event (exec_event), so each claim about commands is one about events beside the resets.
-/
namespace Sys2Proof.Machine

/-! ### What each command answers -/

/-- Every well-formed command answers a next state. -/
theorem exec_next (c : Instr) (s : State) (h : c.wellFormed = true) : ∃ t, exec c s = .next t := by
  cases c
  case systemReadArrival => exact ⟨_, if_pos h⟩
  case systemWriteArrival => exact ⟨_, if_pos h⟩
  case controlPageSettingsWrite => exact ⟨_, if_pos h⟩
  all_goals exact ⟨_, rfl⟩

/-- A malformed command is one of the three that carry a transaction, and is turned away by name (log 21). -/
theorem exec_malformed (c : Instr) (s : State) (h : c.wellFormed = false) :
    exec c s = .refused .malformedTransaction := by
  cases c
  case systemReadArrival => exact if_neg (Bool.eq_false_iff.mp h)
  case systemWriteArrival => exact if_neg (Bool.eq_false_iff.mp h)
  case controlPageSettingsWrite => exact if_neg (Bool.eq_false_iff.mp h)
  all_goals exact absurd h Bool.noConfusion

/-- A command that is no reset leaves the commands waiting, the level of RESET_N and the straps. -/
theorem exec_fixed {c : Instr} {s t : State} (h : exec c s = .next t) (hc : c ≠ .resetAssert)
    (hr : ∀ a b, c ≠ .resetRelease a b) : t.fixed = s.fixed := by
  obtain ⟨f, rfl, holds, -⟩ := exec_event c s t h hc hr
  exact (State.Holds.event s f holds).fixed

/-! ### The invariant -/

/-- The part right after reset meets the invariant: its tables are empty and its units and heads at their reset values. -/
theorem State.reset_inv : State.reset.Inv where
  shadow := rfl
  pass _ := by decide
  table := Nat.zero_le _
  held := Nat.zero_le _
  numbers := ⟨.nil, fun _ h => nomatch h⟩
  own := Nat.zero_le _
  wait := Nat.zero_le _
  results := Nat.zero_le _
  put := by decide
  units k := by
    have unit : State.reset.unit k = .reset := congrArg Strand.unit (vget_replicate Strand.reset k)
    exact unit ▸ .reset
  heads k := by
    have face : State.reset.face k = .reset := vget_replicate Face.reset k
    exact face ▸ Head.Ok.reset
  pool := by
    have empty : (fun k => (State.reset.billet k).numbers) = fun _ => [] :=
      funext fun k => congrArg (fun x => x.billet.numbers) (vget_replicate Strand.reset k)
    rw [empty]
    exact ⟨fun _ _ h => (nomatch h), fun _ => .nil, fun _ _ _ _ h => (nomatch h)⟩
  copying i _ h := by
    have idle : State.reset.slot i = .cleared := vget_replicate Slot.cleared i
    rw [idle] at h
    cases h

/-- RESET_ASSERT empties the lists of the path and of the own traffic, and leaves the rest (R19). -/
theorem State.Inv.resetAssert {s t : State} (i : s.Inv) (h : exec .resetAssert s = .next t) : t.Inv := by
  cases h
  exact { i with
    table := Nat.zero_le _
    held := Nat.zero_le _
    numbers := ⟨.nil, fun _ h => nomatch h⟩
    own := Nat.zero_le _ }

/-- RESET_RELEASE leaves what the invariant reads as it is at reset. -/
theorem State.Inv.resetRelease {s t : State} {a : BitVec 20} {b : Id} (h : exec (.resetRelease a b) s = .next t) :
    t.Inv := by
  cases h
  exact State.reset_inv.ofBounds rfl

/-- Every command keeps the invariant. -/
theorem State.Inv.exec {c : Instr} {s t : State} (i : s.Inv) (h : exec c s = .next t) : t.Inv := by
  by_cases assert : c = .resetAssert
  · exact i.resetAssert (assert ▸ h)
  by_cases release : ∃ a b, c = .resetRelease a b
  · obtain ⟨a, b, rfl⟩ := release
    exact .resetRelease h
  obtain ⟨f, rfl, holds, -⟩ := exec_event c s t h assert fun a b e => release ⟨a, b, e⟩
  exact (State.Holds.event s f holds).inv i

end Sys2Proof.Machine

open Sys2Proof Sys2Proof.Machine

/-! ### The statements -/

/-- Settles O1: both are the definition of a step. -/
theorem stepRunsTheFrontCommand : Obligations.StepRunsTheFrontCommand := by
  refine ⟨fun _ _ _ => rfl, fun s empty => ?_⟩
  unfold step State.idle
  rw [empty]

/-- Settles O2. -/
theorem resetHasTheInvariant : Obligations.ResetHasTheInvariant := State.reset_inv

/-- Settles O3: the invariant reads neither the time base nor the queue of commands, and every command keeps it. -/
theorem everyStepKeepsTheInvariant : Obligations.EveryStepKeepsTheInvariant := by
  intro s t inv h
  unfold step at h
  split at h
  · cases h
    exact inv.ofBounds rfl
  · next rest _ =>
    have queued : ({ s with pending := rest } : State).Inv := inv.ofBounds rfl
    exact queued.exec h

/-- Settles O4: the resets leave the queue of commands by their definition, every other command by being an event. -/
theorem everyCommandAnswers : Obligations.EveryCommandAnswers := by
  refine fun c s => ⟨fun wf => ?_, exec_malformed c s⟩
  by_cases assert : c = .resetAssert
  · subst assert
    exact ⟨_, rfl, rfl, fun no => absurd rfl no⟩
  by_cases release : ∃ a b, c = .resetRelease a b
  · obtain ⟨a, b, rfl⟩ := release
    exact ⟨_, rfl, rfl, fun _ no => absurd rfl (no a b)⟩
  obtain ⟨t, h⟩ := exec_next c s wf
  have fixed := exec_fixed h assert fun a b e => release ⟨a, b, e⟩
  simp only [State.fixed, Prod.mk.injEq] at fixed
  exact ⟨t, h, fixed.1, fun _ _ => fixed.2⟩

/-- Settles O5: the two resets are their definitions, and an event of a part in reset changes nothing (R19). -/
theorem resetAbandonsAndRestores : Obligations.ResetAbandonsAndRestores := by
  refine ⟨fun _ => rfl, fun a b s => ⟨_, rfl, ?release⟩, fun c s low wf assert release => ?low⟩
  case release =>
    have free (e : Fin 64) : vget (Vector.replicate 64 TrackEntry.free) e = .free := vget_replicate _ e
    have strand (k : Fin 4) : vget (Vector.replicate 4 Strand.reset) k = .reset := vget_replicate _ k
    refine ⟨rfl, rfl, rfl, rfl, rfl, rfl, rfl, rfl, rfl, rfl, rfl, rfl, rfl, fun _ => rfl, fun _ => rfl, rfl, rfl, ?irq,
      rfl, vget_replicate _, vget_replicate _, vget_replicate _, fun k => congrArg Strand.unit (strand k),
      fun k => congrArg Strand.predictor (strand k), fun k => congrArg Strand.billet (strand k), rfl,
      fun e => ⟨?track, congrArg TrackEntry.fields (free e)⟩, rfl, vget_replicate _, vget_replicate _, rfl, rfl⟩
    case irq =>
      have none : (0#14 &&& 0#14 &&& (0#16).setWidth 14 != 0#14) = false := rfl
      exact none
    exact if_neg (by rw [State.reset, free e]; exact Bool.false_ne_true)
  case low =>
    obtain ⟨t, h⟩ := exec_next c s wf
    obtain ⟨f, rfl, -⟩ := exec_event c s t h assert release
    rw [h, State.event_low s f low]

end

-- ==== The memory path: arrivals (R1 to R12) ====
section
/-!
PROOFS. What an arrival does (01_the_memory_path.md): the read's pieces, the tests of a write in R3's order, a write that passes
them, and the taking of what is presented (R2). A transaction taken alone and one taken among others have the same equations.
-/
namespace Sys2Proof.Machine

/-! ### Reads (R3, R8, R9) -/

/-- A read of another ID than OWNID joins the table with its pieces, and the forwarding queue with each of them. -/
theorem State.arriveRead_joins (s : State) (r : PresentedRead) (h : r.id ≠ s.ownId) :
    (s.arriveRead r).returnResponses = State.afterJoin s
      (s.path.table ++ [r.toRec s.path.nextSeq .waiting (s.readPieces r) (s.lookup r.addr.toNat) none])
      ((List.range (s.readPieces r).length).map fun i => (s.path.nextSeq, i)) := by
  unfold State.arriveRead
  rw [if_neg h]
  rfl

/-- A read that is not redirected is one piece. -/
theorem State.readPieces_direct (s : State) (r : PresentedRead) (h : s.part = .pass ∨ s.inView r.addr.toNat r.count = false) :
    s.readPieces r =
      [{ target := .direct (s.forwardedAddr (s.lookup r.addr.toNat) r.addr), count := r.count, answer := none }] :=
  if_neg fun no => h.elim no.1 fun out => Bool.false_ne_true (out.symm.trans no.2)

/-- A read of the view area in STARTING or RUN is split over the published views. -/
theorem State.readPieces_view (s : State) (r : PresentedRead) (h : s.part ≠ .pass)
    (view : s.inView r.addr.toNat r.count = true) : s.readPieces r = s.viewPieces r.addr.toNat r.count := if_pos ⟨h, view⟩

/-- The piece of a read that lies between two addresses, none where nothing does. -/
def pieceBetween (target : PieceTarget) (first stop : Nat) : List Piece :=
  if first < stop then [{ target := target, count := stop - first, answer := none }] else []

/-- A piece counts the bytes between its addresses. -/
theorem pieceBetween_count (target : PieceTarget) (first stop : Nat) :
    ((pieceBetween target first stop).map (·.count)).sum = stop - first := by
  unfold pieceBetween
  split
  · simp
  · simp only [List.map_nil, List.sum_nil]
    omega

/-- As the model tests it: by the count. -/
theorem pieceBetween_eq (target : PieceTarget) (first stop : Nat) :
    pieceBetween target first stop =
      if stop - first = 0 then [] else [{ target := target, count := stop - first, answer := none }] := by
  unfold pieceBetween
  by_cases h : first < stop
  · rw [if_pos h, if_neg (by omega)]
  · rw [if_neg h, if_pos (by omega)]

/-- A part of a list made of one element where a test allows it. -/
theorem filterMap_cons_if {α β : Type} (p : α → Prop) [DecidablePred p] (f : α → β) (a : α) (l : List α) :
    (a :: l).filterMap (fun x => if p x then none else some (f x)) =
      (if p a then [] else [f a]) ++ l.filterMap fun x => if p x then none else some (f x) := by
  rw [List.filterMap_cons]
  by_cases h : p a
  · simp [h]
  · simp [h]

/-- The pieces of a view read that ends within 4 KiB past the views, one after another (R9). -/
theorem State.viewPieces_eq (s : State) (addr count : Nat) (h : addr + count ≤ s.ctlBase + 0xA400) :
    let view (k : Nat) : Nat := s.ctlBase + 0x9000 + k * 0x100
    let viewPiece (k : Fin 4) : List Piece :=
      pieceBetween (.view k (max addr (view k.val) - view k.val)) (max addr (view k.val))
        (min (addr + count) (view k.val + 0x100))
    s.viewPieces addr count = viewPiece 0 ++ viewPiece 1 ++ viewPiece 2 ++ viewPiece 3 ++
      pieceBetween (.direct (BitVec.ofNat 40 (max addr (view 4)))) (max addr (view 4)) (addr + count) := by
  intro view viewPiece
  have four : List.finRange 4 = [0, 1, 2, 3] := rfl
  have stop : min (addr + count) (s.ctlBase + 0x9000 + 0x400 + 0x1000) = addr + count := by omega
  have last : view 4 = s.ctlBase + 0x9000 + 0x400 := rfl
  unfold State.viewPieces
  dsimp only
  rw [four, filterMap_cons_if, filterMap_cons_if, filterMap_cons_if, filterMap_cons_if, List.filterMap_nil, List.append_nil]
  simp only [viewPiece, pieceBetween_eq, common, stop, last]
  by_cases none : addr + count - max addr (s.ctlBase + 0x9000 + 0x400) = 0
  · simp only [none, if_true, List.append_nil, List.append_assoc]
    rfl
  · simp only [none, if_false, List.append_assoc]
    rfl

/-! ### Regions (R5) -/

/-- Two ranges overlap exactly where some byte of the first lies in the second. -/
theorem overlaps_iff (a n b m : Nat) : overlaps a n b m = true ↔ ∃ i, i < n ∧ b ≤ a + i ∧ a + i < b + m := by
  simp only [overlaps, Bool.and_eq_true, decide_eq_true_eq]
  constructor
  · rintro ⟨⟨⟨hn, hm⟩, hb⟩, ha⟩
    exact ⟨max a b - a, by omega⟩
  · rintro ⟨i, hi, hb, ha⟩
    omega

/-- The eight billet banks as the two of each strand. -/
theorem exists_bank (p : Nat → Prop) :
    (∃ b : Fin 8, p (b.val * 0x100)) ↔ ∃ k : Fin 4, p (k.val * 0x200) ∨ p (k.val * 0x200 + 0x100) := by
  constructor
  · rintro ⟨b, hb⟩
    refine ⟨⟨b.val / 2, by omega⟩, ?_⟩
    obtain even | odd : b.val * 0x100 = b.val / 2 * 0x200 ∨ b.val * 0x100 = b.val / 2 * 0x200 + 0x100 := by omega
    · exact .inl (even ▸ hb)
    · exact .inr (odd ▸ hb)
  · rintro ⟨k, even | odd⟩
    · exact ⟨⟨2 * k.val, by omega⟩, by rwa [show 2 * k.val * 0x100 = k.val * 0x200 by omega]⟩
    · exact ⟨⟨2 * k.val + 1, by omega⟩, by rwa [show (2 * k.val + 1) * 0x100 = k.val * 0x200 + 0x100 by omega]⟩

/-- The bytes of the regions that R5 names, the pool as the settings give it. -/
def State.regionByte (s : State) (x : Nat) : Prop :=
  (s.ctlBase + 0x4000 ≤ x ∧ x < s.ctlBase + 0x8000) ∨
  (∃ k : Fin 4, (s.ctlBase + 0x8000 + k.val * 0x200 ≤ x ∧ x < s.ctlBase + 0x8080 + k.val * 0x200) ∨
    (s.ctlBase + 0x8100 + k.val * 0x200 ≤ x ∧ x < s.ctlBase + 0x8180 + k.val * 0x200)) ∨
  (s.ctlBase + 0x9000 ≤ x ∧ x < s.ctlBase + 0x9400) ∨
  (s.ctlBase + 0x10000 ≤ x ∧ x < s.ctlBase + 0x20000) ∨
  (s.globals.evidenceEnable = 1 ∧ s.globals.evidenceBase ≤ x ∧ x < s.globals.evidenceBase + s.globals.poolSize)

/-- The region test names the ranges that touch such a byte (R5). -/
theorem State.inPartRegion_iff (s : State) (addr count : Nat) :
    s.inPartRegion addr count = true ↔ ∃ i, i < count ∧ s.regionByte (addr + i) := by
  have banks : (((List.finRange 8).any fun b => s.touches addr count (0x8000 + b.val * 0x100) 0x80) = true) ↔
      ∃ k : Fin 4, (∃ i, i < count ∧ s.ctlBase + (0x8000 + k.val * 0x200) ≤ addr + i ∧
          addr + i < s.ctlBase + (0x8000 + k.val * 0x200) + 0x80) ∨
        ∃ i, i < count ∧ s.ctlBase + (0x8000 + (k.val * 0x200 + 0x100)) ≤ addr + i ∧
          addr + i < s.ctlBase + (0x8000 + (k.val * 0x200 + 0x100)) + 0x80 := by
    have := exists_bank fun n =>
      ∃ i, i < count ∧ s.ctlBase + (0x8000 + n) ≤ addr + i ∧ addr + i < s.ctlBase + (0x8000 + n) + 0x80
    simpa only [List.any_eq_true, List.mem_finRange, true_and, State.touches, overlaps_iff] using this
  unfold State.inPartRegion
  simp only [Bool.or_eq_true, Bool.and_eq_true, beq_iff_eq, banks]
  simp only [State.touches, overlaps_iff, State.regionByte, Nat.add_assoc, Nat.reduceAdd]
  constructor
  · rintro ((((⟨i, hi, h⟩ | ⟨k, ⟨i, hi, h⟩ | ⟨i, hi, h⟩⟩) | ⟨i, hi, h⟩) | ⟨i, hi, h⟩) | ⟨on, i, hi, h⟩)
    · exact ⟨i, hi, .inl (by omega)⟩
    · exact ⟨i, hi, .inr (.inl ⟨k, .inl (by omega)⟩)⟩
    · exact ⟨i, hi, .inr (.inl ⟨k, .inr (by omega)⟩)⟩
    · exact ⟨i, hi, .inr (.inr (.inl (by omega)))⟩
    · exact ⟨i, hi, .inr (.inr (.inr (.inl (by omega))))⟩
    · exact ⟨i, hi, .inr (.inr (.inr (.inr ⟨on, h⟩)))⟩
  · rintro ⟨i, hi, h | ⟨k, h | h⟩ | h | h | ⟨on, h⟩⟩
    · exact .inl (.inl (.inl (.inl ⟨i, hi, by omega⟩)))
    · exact .inl (.inl (.inl (.inr ⟨k, .inl ⟨i, hi, by omega⟩⟩)))
    · exact .inl (.inl (.inl (.inr ⟨k, .inr ⟨i, hi, by omega⟩⟩)))
    · exact .inl (.inl (.inr ⟨i, hi, by omega⟩))
    · exact .inl (.inr ⟨i, hi, by omega⟩)
    · exact .inr ⟨on, i, hi, h⟩

/-! ### The tests of a write in their order (R3) -/

section
variable {s : State} {x : PresentedWrite}

/-- The Control Page test, made of a write that lies in the page. -/
def State.pageCheck (s : State) (x : PresentedWrite) : Option Reason :=
  if s.inControlPage x.addr then s.checkControl (coveredCells (x.addr.toNat - s.ctlBase) x.data x.strobes) else none

theorem State.writeRefusal_page {r : Reason} (own : x.id ≠ s.ownId) (check : s.pageCheck x = some r) :
    s.writeRefusal x = some r := by
  have cells : (if s.inControlPage x.addr then s.checkControl (s.writeCells x.addr x.data x.strobes) else none) =
    some r := check
  unfold State.writeRefusal
  rw [if_neg own, cells]
  rfl

theorem State.writeRefusal_checked (own : x.id ≠ s.ownId) (check : s.pageCheck x = none) :
    s.writeRefusal x = failIf (s.part == .run && s.inPartRegion x.addr.toNat x.data.length) .partRegion := by
  have cells : (if s.inControlPage x.addr then s.checkControl (s.writeCells x.addr x.data x.strobes) else none) =
    none := check
  unfold State.writeRefusal
  rw [if_neg own, cells]
  rfl

theorem State.writeRefusal_region (own : x.id ≠ s.ownId) (check : s.pageCheck x = none)
    (region : s.part = .run ∧ s.inPartRegion x.addr.toNat x.data.length = true) :
    s.writeRefusal x = some .partRegion := by
  rw [State.writeRefusal_checked own check, region.1, region.2]
  rfl

theorem State.writeRefusal_none (own : x.id ≠ s.ownId) (check : s.pageCheck x = none)
    (region : ¬(s.part = .run ∧ s.inPartRegion x.addr.toNat x.data.length = true)) : s.writeRefusal x = none := by
  rw [State.writeRefusal_checked own check]
  exact if_neg (by simpa using region)

theorem State.pageCheck_outside (out : s.inControlPage x.addr = false) : s.pageCheck x = none :=
  if_neg (Bool.eq_false_iff.mp out)

/-! ### A write that passes the tests (R8, R10 to R12) -/

/-- The end of an operation that marks its changes leaves the rest. -/
theorem State.markChanges_eq (c o : State) : ∃ m, c.markChanges o = { c with marks := m } := ⟨_, rfl⟩

/-- The hold test fails behind a held write of the ID, and on a protected line of the window (R12). -/
theorem State.holds_iff (s : State) (id : Id) (w : Option (Fin 16)) (offset count : Nat) :
    s.holds id w offset count = true ↔
      (∃ h ∈ s.path.held, h.id = id) ∨ ∃ v, w = some v ∧ s.protectedRange v offset count = true := by
  unfold State.holds State.listEmpty
  cases w <;> simp

/-- The state with the in-flight place taken or left. -/
def State.withInFlight (s : State) (q : Option Nat) : State := { s with path := { s.path with controlInFlight := q } }

theorem State.takeInFlight_eq (s : State) (q : Nat) (page : Bool) :
    s.takeInFlight q page = s.withInFlight (if page then some q else s.path.controlInFlight) := by
  cases page <;> rfl

/-- What the capture leaves of a write that is captured, and the state as it is for one that is not. -/
def State.captured (s : State) (x : PresentedWrite) : State :=
  if s.captures (s.lookup x.addr.toNat) x.id then s.passCapture (s.lookup x.addr.toNat) x else s

/-- The face channel that the record of an accepted write names. -/
def State.capturedFace (s : State) (x : PresentedWrite) : Option (Fin 16) :=
  if s.captures (s.lookup x.addr.toNat) x.id then (s.lookup x.addr.toNat).map fun v => (s.window v).channel else none

theorem State.captured_none (h : s.captures (s.lookup x.addr.toNat) x.id = false) :
    s.captured x = s ∧ s.capturedFace x = none := by
  unfold State.captured State.capturedFace
  rw [h]
  exact ⟨rfl, rfl⟩

theorem State.captured_some {v : Fin 16} (run : s.part = .run) (w : s.lookup x.addr.toNat = some v)
    (id : (s.window v).idMatches x.id = true) :
    s.captured x = (s.captureWrite v (s.windowOffset (s.lookup x.addr.toNat) x.addr) x.data x.strobes).markChanges s ∧
      s.capturedFace x = some (s.window v).channel := by
  have captures : s.captures (some v) x.id = true := by simp [State.captures, run, id]
  unfold State.captured State.capturedFace
  rw [w, captures]
  exact ⟨rfl, rfl⟩

/-- An accepted write's hold timer, as R14 gives it: started when its list is empty. -/
def State.holdExpires (s : State) (id : Id) : Option Nat :=
  if ∃ h ∈ s.path.held, h.id = id then none else some (s.timeBase + s.globals.holdLimit)

theorem State.holdExpires_eq (s : State) (id : Id) :
    (if s.listEmpty id then some (s.timeBase + s.globals.holdLimit) else none) = s.holdExpires id := by
  unfold State.holdExpires State.listEmpty
  by_cases h : ∃ x ∈ s.path.held, x.id = id
  · rw [if_pos h, if_neg (by simpa using h)]
  · rw [if_neg h, if_pos (by simpa using h)]

/-- The record of an accepted write. -/
def State.acceptedRecord (s : State) (x : PresentedWrite) (d : Disposition) : Rec :=
  { State.writeRecord s x.id x.addr x.data x.strobes d (s.capturedFace x) with controlPage := s.inControlPage x.addr }

/-- The state in which an accepted write's record joins. -/
def State.acceptedInto (s : State) (x : PresentedWrite) : State :=
  (s.captured x).withInFlight (if s.inControlPage x.addr then some s.path.nextSeq else (s.captured x).path.controlInFlight)

/-- The in-flight place is apart from the table and the held writes. -/
theorem State.withInFlight_lists (c : State) (q : Option Nat) (id : Id) :
    (c.withInFlight q).path.table = c.path.table ∧ (c.withInFlight q).path.held = c.path.held ∧
      (c.withInFlight q).holdExpires id = c.holdExpires id := ⟨rfl, rfl, rfl⟩

theorem State.acceptedInto_table : (s.acceptedInto x).path.table = (s.captured x).path.table :=
  (State.withInFlight_lists _ _ x.id).1

theorem State.acceptedInto_held : (s.acceptedInto x).path.held = (s.captured x).path.held :=
  (State.withInFlight_lists _ _ x.id).2.1

theorem State.acceptedInto_expires (id : Id) : (s.acceptedInto x).holdExpires id = (s.captured x).holdExpires id :=
  (State.withInFlight_lists _ _ id).2.2

/-- An accepted write that fails the hold test, held (R12). -/
def State.acceptedHeld (s : State) (x : PresentedWrite) : HeldWrite :=
  { seq := s.path.nextSeq, id := x.id, window := s.lookup x.addr.toNat
    offset := s.windowOffset (s.lookup x.addr.toNat) x.addr, count := x.data.length
    expiry := (s.captured x).holdExpires x.id }

/-- The in-flight place is nothing that the hold test reads. -/
theorem State.holds_withInFlight (s : State) (q : Option Nat) (id : Id) (w : Option (Fin 16)) (offset count : Nat) :
    (s.withInFlight q).holds id w offset count = s.holds id w offset count := by
  unfold State.holds State.withInFlight
  simp only [State.protectedRange_path]
  rfl

/-- An accepted write, by the hold test made on what the capture left. -/
theorem State.acceptWrite_eq (s : State) (x : PresentedWrite) : s.acceptWrite x =
    if (s.captured x).holds x.id (s.lookup x.addr.toNat) (s.windowOffset (s.lookup x.addr.toNat) x.addr) x.data.length then
      ((s.acceptedInto x).joinTable (s.acceptedRecord x .deferred)).hold
        { seq := s.path.nextSeq, id := x.id, window := s.lookup x.addr.toNat
          offset := s.windowOffset (s.lookup x.addr.toNat) x.addr, count := x.data.length, expiry := none }
    else ((s.acceptedInto x).joinTable (s.acceptedRecord x .waiting)).joinForwarding s.path.nextSeq 1 := by
  unfold State.acceptWrite
  dsimp only
  rw [State.takeInFlight_eq, State.holds_withInFlight]
  rfl

/-- A record that joins the table with its first piece in the forwarding queue, and the responses returned that can be. -/
theorem State.joinForwarding_returned (s : State) (r : Rec) (q : Nat) :
    ((s.joinTable r).joinForwarding q 1).returnResponses = State.afterJoin s (s.path.table ++ [r]) [(q, 0)] := rfl

/-- A record that joins the table with its write held. -/
theorem State.hold_returned (s : State) (r : Rec) (h : HeldWrite) :
    let b := State.afterJoin s (s.path.table ++ [r]) []
    ((s.joinTable r).hold h).returnResponses =
      { b with path := { b.path with held := s.path.held ++ [{ h with expiry := s.holdExpires h.id }] } } := by
  intro b
  simp only [b, State.afterJoin, List.append_nil, ← State.holdExpires_eq]
  rfl

/-- An accepted write that passes the hold test, made on what the capture left, joins the forwarding queue. -/
theorem State.acceptWrite_waiting
    (pass : ¬(s.captured x).holds x.id (s.lookup x.addr.toNat) (s.windowOffset (s.lookup x.addr.toNat) x.addr)
      x.data.length = true) :
    (s.acceptWrite x).returnResponses = State.afterJoin (s.acceptedInto x)
      ((s.captured x).path.table ++ [s.acceptedRecord x .waiting]) [(s.path.nextSeq, 0)] := by
  rw [State.acceptWrite_eq, if_neg pass, State.joinForwarding_returned, State.acceptedInto_table]

/-- One that fails it is held. -/
theorem State.acceptWrite_held
    (fail : (s.captured x).holds x.id (s.lookup x.addr.toNat) (s.windowOffset (s.lookup x.addr.toNat) x.addr)
      x.data.length = true) :
    let b := State.afterJoin (s.acceptedInto x) ((s.captured x).path.table ++ [s.acceptedRecord x .deferred]) []
    (s.acceptWrite x).returnResponses =
      { b with path := { b.path with held := (s.captured x).path.held ++ [s.acceptedHeld x] } } := by
  intro b
  rw [State.acceptWrite_eq, if_pos fail, State.hold_returned, State.acceptedInto_table, State.acceptedInto_held,
    State.acceptedInto_expires]
  rfl

/-- An accepted write, from what its capture leaves of the state and the face that its record names. -/
theorem State.acceptWrite_joins {c : State} {face : Option (Fin 16)} (hc : s.captured x = c) (hf : s.capturedFace x = face) :
    let w := s.lookup x.addr.toNat
    let offset := s.windowOffset w x.addr
    let u : State := { c with path := { c.path with
      controlInFlight := if s.inControlPage x.addr then some s.path.nextSeq else c.path.controlInFlight } }
    let record (d : Disposition) : Rec :=
      { State.writeRecord s x.id x.addr x.data x.strobes d face with controlPage := s.inControlPage x.addr }
    let fails : Prop := (∃ h ∈ c.path.held, h.id = x.id) ∨ ∃ v, w = some v ∧ c.protectedRange v offset x.data.length = true
    (¬fails → (s.acceptWrite x).returnResponses =
      State.afterJoin u (c.path.table ++ [record .waiting]) [(s.path.nextSeq, 0)]) ∧
    (fails →
      let b := State.afterJoin u (c.path.table ++ [record .deferred]) []
      (s.acceptWrite x).returnResponses = { b with path := { b.path with
        held := c.path.held ++
          [{ seq := s.path.nextSeq, id := x.id, window := w, offset := offset, count := x.data.length
             expiry := if ∃ h ∈ c.path.held, h.id = x.id then none else some (c.timeBase + c.globals.holdLimit) }] } }) := by
  intro w offset u record fails
  have test : (s.captured x).holds x.id w offset x.data.length = true ↔ fails := by rw [hc, State.holds_iff]
  refine ⟨fun pass => ?_, fun fail => ?_⟩
  · rw [State.acceptWrite_waiting (pass ∘ test.mp)]
    unfold State.acceptedInto State.acceptedRecord
    rw [hc, hf]
    rfl
  · rw [State.acceptWrite_held (test.mpr fail)]
    unfold State.acceptedInto State.acceptedRecord State.acceptedHeld
    rw [hc, hf]
    rfl

end

/-! ### Taken alone, and among others (R2) -/

/-- A read presented and taken alone. -/
theorem Answers.readArrival {s b : State} {id : Id} {addr : Addr} {count : Nat} (hl : s.resetLow = false)
    (quiet : s.nothingPresented) (room : s.path.table.length < 64)
    (wf : (Instr.systemReadArrival id addr count).wellFormed = true)
    (h : b.Settles (s.opened.arriveRead ⟨id, addr, count⟩).returnResponses) :
    Answers (.systemReadArrival id addr count) s b := by
  refine .of_event_settles (exec_systemReadArrival _ _ _ s wf) hl ?_
  rwa [State.presentRead_ready s.opened _ quiet.1 quiet.2 room]

/-- A write presented and taken alone. -/
theorem Answers.writeArrival {s b : State} {id : Id} {addr : Addr} {data : List Byte} {strobes : List Bool}
    (hl : s.resetLow = false) (quiet : s.nothingPresented) (takes : State.takesWrite s addr)
    (wf : (Instr.systemWriteArrival id addr data strobes).wellFormed = true)
    (h : b.Settles (s.opened.arriveWrite ⟨id, addr, data, strobes⟩).returnResponses) :
    Answers (.systemWriteArrival id addr data strobes) s b := by
  obtain ⟨table, held, page⟩ := takes
  refine .of_event_settles (exec_systemWriteArrival _ _ _ _ s wf) hl ?_
  rwa [State.presentWrite_ready s.opened ⟨id, addr, data, strobes⟩ quiet.1 quiet.2 table held page]

/-- A write that a test refuses, presented and taken alone. -/
theorem State.Settles.refuseWrite (s : State) (x : PresentedWrite) (r : Reason) (h : s.opened.writeRefusal x = some r) :
    (s.opened.afterRefusal r x.addr
      (x.toRec s.path.nextSeq .refused [] (s.lookup x.addr.toNat) none false (some (.error, [])))).Settles
      (s.opened.arriveWrite x).returnResponses := by
  rw [State.arriveWrite_refused s.opened x r h]
  exact .refuseArrival s r x.addr _

theorem State.arriveWrite_accepted (s : State) (x : PresentedWrite) (h : s.writeRefusal x = none) :
    s.arriveWrite x = s.acceptWrite x := by
  unfold State.arriveWrite
  rw [h]

/-- What a refusal leaves of a transaction taken among others. -/
theorem State.refusedInto_join (o : State) (r : Reason) (addr : Addr) (x : Rec) :
    State.refusedInto o r addr x (((o.refuse r addr).joinTable x).returnResponses) := by
  have dirty : ((o.refuse r addr).mark 0).dirty = true := by
    unfold State.refuse
    exact State.dirty_markDirty _ 0 0 (.inr rfl)
  obtain ⟨m, refused⟩ := o.refuse_eq_withCause r addr
  refine ⟨?_, dirty⟩
  rw [refused]
  simp only [State.afterJoin, List.append_nil]
  exact .ofMarks _ m

/-- The first read presented goes while the table has a place. -/
theorem State.readReady_iff (s : State) :
    s.readReady = true ↔ s.path.presentedReads ≠ [] ∧ s.path.table.length < 64 := by
  simp only [State.readReady, State.tableFree, Bool.and_eq_true, decide_eq_true_eq]
  simp [Config.tablePlaces]

/-- The first write presented goes while the S-port takes it. -/
theorem State.writeReady_iff (s : State) :
    s.writeReady = true ↔ ∃ x rest, s.path.presentedWrites = x :: rest ∧ State.takesWrite s x.addr := by
  unfold State.writeReady
  cases hw : s.path.presentedWrites with
  | nil => simp
  | cons x rest =>
    have first (p : PresentedWrite → Prop) : (∃ y l, x :: rest = y :: l ∧ p y) ↔ p x :=
      ⟨fun ⟨y, l, e, h⟩ => (List.cons.inj e).1 ▸ h, fun h => ⟨x, rest, rfl, h⟩⟩
    simp only [first, State.takesWrite, State.tableFree, Bool.and_eq_true, decide_eq_true_eq, Bool.or_eq_true,
      Bool.not_eq_true', Option.isNone_iff_eq_none, and_assoc]
    cases s.inControlPage x.addr
    · simp [Config.tablePlaces, Config.heldPlaces]
    · simp [Config.tablePlaces, Config.heldPlaces]

theorem State.takeRead_cons {s : State} {r : PresentedRead} {rest : List PresentedRead}
    (h : s.path.presentedReads = r :: rest) :
    s.takeRead = (({ s with path := { s.path with presentedReads := rest } } : State).arriveRead r).returnResponses := by
  unfold State.takeRead
  rw [h]

theorem State.takeWrite_cons {s : State} {x : PresentedWrite} {rest : List PresentedWrite}
    (h : s.path.presentedWrites = x :: rest) :
    s.takeWrite = (({ s with path := { s.path with presentedWrites := rest } } : State).arriveWrite x).returnResponses := by
  unfold State.takeWrite
  rw [h]

end Sys2Proof.Machine

open Sys2Proof Sys2Proof.Machine

/-! ### The statements -/

/-- Settles O6: a read that is not redirected is one piece, at the address that its window forwards it to. -/
theorem readArrivalIsForwarded : Obligations.ReadArrivalIsForwarded := by
  intro s id addr count hl quiet room wf own direct
  refine .readArrival hl quiet room wf ?_
  have other : (⟨id, addr, count⟩ : PresentedRead).id ≠ s.opened.ownId := own
  rw [State.arriveRead_joins s.opened _ other, State.readPieces_direct s.opened ⟨id, addr, count⟩ direct]
  exact .refl _

/-- Settles O7: the read lies in one 4 KiB block, so that its pieces cover it. -/
theorem viewReadIsSplit : Obligations.ViewReadIsSplit := by
  intro s id addr count hl quiet room wf own on inView past view viewPiece directPiece pieces
  have wide : 1 ≤ count ∧ addr.toNat % 4096 + count ≤ 4096 := by
    simp only [Instr.wellFormed, transactionRange, Bool.and_eq_true, decide_eq_true_eq] at wf
    omega
  have block : s.ctlBase + 0x9000 ≤ addr.toNat ∧ addr.toNat < s.ctlBase + 0x9400 := by
    obtain ⟨i, hi, low, high⟩ := (overlaps_iff _ _ _ _).mp inView
    simp only [State.ctlBase] at low high ⊢
    omega
  have split : s.readPieces ⟨id, addr, count⟩ = pieces :=
    (s.readPieces_view ⟨id, addr, count⟩ on inView).trans (s.viewPieces_eq addr.toNat count (by omega))
  have covered : (pieces.map (·.count)).sum = count := by
    have parts : (pieces.map (·.count)).sum =
        (min past (view 0 + 0x100) - max addr.toNat (view 0)) + (min past (view 1 + 0x100) - max addr.toNat (view 1)) +
        (min past (view 2 + 0x100) - max addr.toNat (view 2)) + (min past (view 3 + 0x100) - max addr.toNat (view 3)) +
        (past - max addr.toNat (view 4)) := by
      simp only [pieces, List.map_append, List.sum_append]
      exact congrArg₂ _ (congrArg₂ _ (congrArg₂ _ (congrArg₂ _ (pieceBetween_count ..) (pieceBetween_count ..))
        (pieceBetween_count ..)) (pieceBetween_count ..)) (pieceBetween_count ..)
    simp only [parts, past, view]
    omega
  refine ⟨.readArrival hl quiet room wf ?_, covered, fun none => ?_⟩
  · have other : (⟨id, addr, count⟩ : PresentedRead).id ≠ s.opened.ownId := own
    have opened : s.opened.readPieces ⟨id, addr, count⟩ = pieces := split
    rw [State.arriveRead_joins s.opened _ other, opened]
    exact .refl _
  · rw [none] at covered
    have : (0 : Nat) = count := covered
    omega

/-- Settles O9: outside the Control Page the region test is the first that can fail, and it names the bytes of R5. -/
theorem partRegionIsRefused : Obligations.PartRegionIsRefused := by
  refine ⟨fun s id addr data strobes hl quiet takes wf own run outside region => ?refused, fun s addr count size => ?bytes⟩
  case refused =>
    refine .writeArrival hl quiet takes wf (.refuseWrite s ⟨id, addr, data, strobes⟩ _ ?_)
    exact State.writeRefusal_region own (State.pageCheck_outside outside) ⟨run, region⟩
  case bytes =>
    have pool : s.globals.poolSize = s.globals.tileCount * (65536 * 2 ^ s.globals.tileSizeLog) :=
      if_neg (Nat.not_lt.mpr size)
    rw [State.inPartRegion_iff]
    simp only [State.regionByte, pool]

/-- Settles O10: a write that passes its checks and is no capture joins, by the hold test; one that finds another in flight
stays presented. -/
theorem controlPageWriteArrives : Obligations.ControlPageWriteArrives := by
  intro s id addr data strobes hl quiet wf page check fails
  let x : PresentedWrite := ⟨id, addr, data, strobes⟩
  have checked : s.opened.pageCheck x = check := if_pos page
  refine ⟨fun own takes pass region free => ?joins, fun r own takes fail => ?refused, fun busy => ?stays⟩
  case joins =>
    have accepted : s.opened.writeRefusal x = none :=
      State.writeRefusal_none own (checked.trans pass) fun h => Bool.false_ne_true ((region h.1).symm.trans h.2)
    obtain ⟨same, face⟩ := State.captured_none (x := x) (s := s.opened) free
    have joins := State.acceptWrite_joins same face
    rw [show s.opened.inControlPage x.addr = true from page] at joins
    have test : ((∃ h ∈ s.opened.path.held, h.id = x.id) ∨ ∃ v, s.opened.lookup x.addr.toNat = some v ∧
        s.opened.protectedRange v (s.opened.windowOffset (s.opened.lookup x.addr.toNat) x.addr) x.data.length = true) ↔
        fails :=
      or_congr_right (exists_congr fun w => and_congr_right fun found => by rw [found]; rfl)
    refine ⟨fun ok => .writeArrival hl quiet takes wf ?_, fun fail => .writeArrival hl quiet takes wf ?_⟩
    · rw [State.arriveWrite_accepted _ _ accepted, joins.1 (ok ∘ test.mp)]
      exact .refl _
    · rw [State.arriveWrite_accepted _ _ accepted, joins.2 (test.mpr fail)]
      exact .refl _
  case refused => exact .writeArrival hl quiet takes wf (.refuseWrite s x r (State.writeRefusal_page own (checked.trans fail)))
  case stays =>
    refine .of_event (exec_systemWriteArrival _ _ _ _ s wf) hl ?_
    unfold State.presentWrite
    rw [State.opened_presentedWrites, quiet.2]
    refine State.takePresented_neither _ ?_ ?_
    · exact Bool.eq_false_iff.mpr fun h => (State.readReady_iff _).mp h |>.1 quiet.1
    · refine Bool.eq_false_iff.mpr fun h => ?_
      obtain ⟨y, rest, first, takes⟩ := (State.writeReady_iff _).mp h
      obtain ⟨rfl, -⟩ := List.cons.inj first
      exact busy (takes.2.2 page)

/-- Settles O11: outside RUN's captures the state in which the record joins is the state as the write finds it. -/
theorem writeArrivalIsForwardedOrHeld : Obligations.WriteArrivalIsForwardedOrHeld := by
  intro s id addr data strobes hl quiet takes wf own outside region free fails
  let x : PresentedWrite := ⟨id, addr, data, strobes⟩
  have accepted : s.opened.writeRefusal x = none :=
    State.writeRefusal_none own (State.pageCheck_outside outside) fun h =>
      Bool.false_ne_true ((region h.1).symm.trans h.2)
  obtain ⟨same, face⟩ := State.captured_none (x := x) (s := s.opened) free
  have joins := State.acceptWrite_joins same face
  rw [show s.opened.inControlPage x.addr = false from outside] at joins
  have test : ((∃ h ∈ s.opened.path.held, h.id = x.id) ∨ ∃ v, s.opened.lookup x.addr.toNat = some v ∧
      s.opened.protectedRange v (s.opened.windowOffset (s.opened.lookup x.addr.toNat) x.addr) x.data.length = true) ↔
      fails :=
    or_congr_right (exists_congr fun w => and_congr_right fun found => by rw [found]; rfl)
  refine ⟨fun pass => .writeArrival hl quiet takes wf ?_, fun fail => .writeArrival hl quiet takes wf ?_⟩
  · rw [State.arriveWrite_accepted _ _ accepted, joins.1 (pass ∘ test.mp)]
    exact .refl _
  · rw [State.arriveWrite_accepted _ _ accepted, joins.2 (test.mpr fail)]
    exact .refl _

/-- Settles O12: the record joins in the state that the capture leaves, which the capture's own marks do not change. -/
theorem writeArrivalIsCaptured : Obligations.WriteArrivalIsCaptured := by
  intro s id addr data strobes w hl quiet takes wf own outside run region found hits offset c fails
  let x : PresentedWrite := ⟨id, addr, data, strobes⟩
  have accepted : s.opened.writeRefusal x = none :=
    State.writeRefusal_none own (State.pageCheck_outside outside) fun h =>
      Bool.false_ne_true (region.symm.trans h.2)
  obtain ⟨left, face⟩ := State.captured_some (x := x) (s := s.opened) run found hits
  have place : s.opened.windowOffset (s.opened.lookup x.addr.toNat) x.addr = offset := by
    rw [show s.opened.lookup x.addr.toNat = some w from found]
    rfl
  rw [place] at left
  obtain ⟨m, marked⟩ := State.markChanges_eq c s.opened
  have joins := State.acceptWrite_joins (left.trans marked) face
  dsimp only at joins
  rw [place, show s.opened.inControlPage x.addr = false from outside,
    show s.opened.lookup x.addr.toNat = some w from found] at joins
  obtain ⟨waiting, held⟩ := joins
  have record (d : Disposition) : State.writeRecord s id addr data strobes d (some (s.window w).channel) =
      { State.writeRecord s.opened x.id x.addr x.data x.strobes d (some (s.opened.window w).channel) with
        controlPage := false } := rfl
  clear_value c
  have test : ((∃ h ∈ c.path.held, h.id = x.id) ∨
      ∃ v, some w = some v ∧ ({ c with marks := m } : State).protectedRange v offset x.data.length = true) ↔ fails :=
    or_congr_right ⟨fun ⟨_, e, h⟩ => Option.some.inj e ▸ h, fun h => ⟨w, rfl, h⟩⟩
  refine ⟨fun pass => .writeArrival hl quiet takes wf ?_, fun fail => .writeArrival hl quiet takes wf ?_⟩
  · rw [State.arriveWrite_accepted _ _ accepted, waiting (pass ∘ test.mp), record]
    exact .ofMarks _ m
  · rw [State.arriveWrite_accepted _ _ accepted, held (test.mpr fail), record]
    exact .ofMarks _ m

/-- Settles O14: the taking by the directions that are ready, and each transaction taken as its arrival is. -/
theorem fullPathLeavesArrivalsPresented : Obligations.FullPathLeavesArrivalsPresented := by
  refine ⟨?readStays, ?writeStays, ?taking, ?read, ?write⟩
  case readStays =>
    intro s id addr count hl wf b
    refine ⟨.of_event (exec_systemReadArrival _ _ _ s wf) hl rfl, fun quiet full => ?_⟩
    refine State.takePresented_neither _ (Bool.eq_false_iff.mpr fun h => ?_) (Bool.eq_false_iff.mpr fun h => ?_)
    · exact Nat.not_lt.mpr full (((State.readReady_iff _).mp h).2)
    · obtain ⟨x, rest, first, -⟩ := (State.writeReady_iff _).mp h
      exact List.cons_ne_nil _ _ (first.symm.trans quiet.2)
  case writeStays =>
    intro s id addr data strobes hl wf b
    refine ⟨.of_event (exec_systemWriteArrival _ _ _ _ s wf) hl rfl, fun quiet full => ?_⟩
    refine State.takePresented_neither _ (Bool.eq_false_iff.mpr fun h => ?_) (Bool.eq_false_iff.mpr fun h => ?_)
    · exact ((State.readReady_iff _).mp h).1 quiet.1
    · obtain ⟨x, rest, -, table, held, -⟩ := (State.writeReady_iff _).mp h
      exact full.elim (Nat.not_le.mpr table) (Nat.not_le.mpr held)
  case taking =>
    intro s readGoes writeGoes
    have read : readGoes ↔ s.readReady = true := s.readReady_iff.symm
    have write : writeGoes ↔ s.writeReady = true := s.writeReady_iff.symm
    simp only [read, write, Bool.not_eq_true]
    refine ⟨s.takePresented_neither, s.takePresented_read, s.takePresented_write, fun r w => ?_⟩
    have both := s.takePresented_both r w
    split at both
    · exact .inl both
    · exact .inr both
  case read =>
    intro s r rest first o record
    rw [State.takeRead_cons first]
    refine ⟨fun own => ?_, fun own => o.arriveRead_joins r own⟩
    rw [o.arriveRead_ownId r own]
    exact State.refusedInto_join o _ _ _
  case write =>
    intro s x rest first o inPage w offset check inRegion refused joined
    have refuse {reason : Reason} (h : o.writeRefusal x = some reason) : refused reason := by
      have := State.refusedInto_join o reason x.addr
        (x.toRec o.path.nextSeq .refused [] (o.lookup x.addr.toNat) none false (some (.error, [])))
      rw [← State.arriveWrite_refused o x reason h, ← State.takeWrite_cons first] at this
      exact this
    refine ⟨fun own => refuse (o.writeRefusal_ownId x own), fun r own fail => refuse (State.writeRefusal_page own fail),
      fun own pass region => refuse (State.writeRefusal_region own pass region), ?_⟩
    intro own pass region inFlight
    have accepted : s.takeWrite = (o.acceptWrite x).returnResponses := by
      rw [State.takeWrite_cons first, State.arriveWrite_accepted o x (State.writeRefusal_none own pass region)]
    have joins {c : State} {face : Option (Fin 16)} (hc : o.captured x = c) (hf : o.capturedFace x = face) :
        joined c face (inFlight c) := by
      obtain ⟨waiting, held⟩ := State.acceptWrite_joins hc hf
      exact ⟨fun ok => accepted.trans (waiting ok), fun fail => accepted.trans (held fail)⟩
    refine ⟨fun free => ?_, fun v run found hits => ?_⟩
    · obtain ⟨same, face⟩ := State.captured_none (x := x) (s := o) free
      exact joins same face
    · obtain ⟨left, face⟩ := State.captured_some (x := x) (s := o) run found hits
      exact joins left face

end

-- ==== The memory path: places of the Own Traffic Queue (R16) ====
section
/-!
PROOFS. A freed place of the Own Traffic Queue (R16, R140, R148, R180): whom it goes to, and what each waiting unit does with it
when it is the only one and the place the only one free.
-/
namespace Sys2Proof.Machine

/-! ### Whom a place goes to (R16) -/

/-- The least of a list's numbers is one of them, and none is below it. -/
theorem foldl_min_spec (l : List Nat) (a : Nat) :
    (l.foldl min a = a ∨ l.foldl min a ∈ l) ∧ l.foldl min a ≤ a ∧ ∀ b ∈ l, l.foldl min a ≤ b := by
  induction l generalizing a with
  | nil => simp
  | cons c rest ih =>
    obtain ⟨attained, low, lower⟩ := ih (min a c)
    simp only [List.foldl_cons, List.mem_cons, forall_eq_or_imp]
    refine ⟨?_, by omega, by omega, lower⟩
    obtain same | inside := attained
    · obtain left | right : min a c = a ∨ min a c = c := by omega
      · exact .inl (same.trans left)
      · exact .inr (.inl (same.trans right))
    · exact .inr (.inr inside)

/-- A free choice changes the count of choices alone, and names one of the things (log 9). -/
theorem State.choose_spec (s : State) (n : Nat) :
    (∃ c, (s.choose n).2 = { s with choiceNumber := c }) ∧ (0 < n → (s.choose n).1 < n) := by
  unfold State.choose
  split
  · exact ⟨⟨_, rfl⟩, id⟩
  · exact ⟨⟨_, rfl⟩, Nat.mod_lt _⟩

/-- The place goes to one of those that have waited longest. -/
theorem State.longestWaiter_spec (s : State) (h : s.own.waiters ≠ []) :
    ∃ x ∈ s.own.waiters, (∀ y ∈ s.own.waiters, x.2 ≤ y.2) ∧
      ∃ c, s.longestWaiter = some (x.1, { s with choiceNumber := c }) := by
  unfold State.longestWaiter
  split
  · next none => exact absurd none h
  next x rest hw =>
  dsimp only
  obtain ⟨attained, low, lower⟩ := foldl_min_spec (s.own.waiters.map (·.2)) x.2
  generalize (s.own.waiters.map (·.2)).foldl min x.2 = first at *
  have least : ∃ y ∈ s.own.waiters, y.2 = first := by
    obtain same | inside := attained
    · exact ⟨x, hw ▸ List.mem_cons_self, same.symm⟩
    · exact List.mem_map.mp inside
  obtain ⟨y, hy, e⟩ := least
  have some_ : y ∈ s.own.waiters.filter fun z => z.2 == first := List.mem_filter.mpr ⟨hy, beq_iff_eq.mpr e⟩
  obtain ⟨⟨c, same⟩, inside⟩ := s.choose_spec (s.own.waiters.filter fun z => z.2 == first).length
  have index := inside (List.length_pos_of_mem some_)
  have chosen := List.getElem_mem index
  rw [← List.getD_eq_getElem _ x] at chosen
  obtain ⟨mem, old⟩ := List.mem_filter.mp chosen
  refine ⟨_, mem, fun z hz => ?_, c, congrArg (fun u => some (_, u)) same⟩
  rw [beq_iff_eq.mp old]
  exact lower _ (List.mem_map_of_mem hz)

/-- The place given: the unit's wait ends, and it uses the place. -/
theorem State.placeGiven_spec (s : State) (room : s.own.queue.length < Config.ownPlaces) (h : s.own.waiters ≠ []) :
    ∃ x ∈ s.own.waiters, (∀ y ∈ s.own.waiters, x.2 ≤ y.2) ∧ ∃ c, s.placeGiven =
      State.givePlace { s with choiceNumber := c, own := { s.own with waiters := s.own.waiters.filter fun y => y.1 != x.1 } }
        x.1 := by
  obtain ⟨x, mem, least, c, found⟩ := s.longestWaiter_spec h
  refine ⟨x, mem, least, c, ?_⟩
  unfold State.placeGiven
  rw [if_pos room, found]
  rfl

/-- With one unit waiting it is that one, and no choice is made. -/
theorem State.placeGiven_only (s : State) {w : Waiter} {n : Nat} (room : s.own.queue.length < Config.ownPlaces)
    (h : s.own.waiters = [(w, n)]) :
    s.placeGiven = State.givePlace { s with own := { s.own with waiters := [] } } w := by
  have first : s.longestWaiter = some (w, s) := by
    unfold State.longestWaiter
    rw [h]
    simp [State.choose]
  unfold State.placeGiven State.endWait
  rw [if_pos room, first]
  simp [h]

/-! ### The last place taken -/

/-- A transaction joins a queue with a place. -/
theorem State.pushOwn_joins (s : State) (t : OwnTxn) (room : s.own.queue.length < Config.ownPlaces) :
    s.pushOwn t = { s with own := { s.own with queue := s.own.queue ++ [t] } } := if_pos room

/-- A unit begins to wait where none does. -/
theorem State.beginWait_first (s : State) (w : Waiter) (none : s.own.waiters = []) :
    s.beginWait w = { s with own := { s.own with waiters := [(w, s.eventNumber)] } } := by
  unfold State.beginWait State.waits
  simp [none]

/-- A full queue has no place free. -/
theorem State.placeFree_full (s : State) (full : s.own.queue.length = 8) : s.placeFree = false := by
  unfold State.placeFree
  rw [full]
  exact decide_eq_false (Nat.not_lt.mpr (Nat.le_add_right _ _))

/-- A queue of seven joined by one transaction is full. -/
theorem length_joined {q : List OwnTxn} (seven : q.length = 7) (t : OwnTxn) : (q ++ [t]).length = 8 := by
  rw [List.length_append, seven, List.length_singleton]

section
variable {s : State} (seven : s.own.queue.length = 7) (none : s.own.waiters = [])
include seven none

/-- The Evidence Engine's first transaction takes the last place, and with more the engine waits again. -/
theorem State.engineGiven_last {x : OwnTxn} {rest : List OwnTxn} (h : s.own.engine = x :: rest) :
    s.engineGiven =
      { s.readIssued x.tag with own := { s.own with
          queue := s.own.queue ++ [x]
          engine := rest
          waiters := if rest = [] then [] else [(.evidence, s.eventNumber)] } } := by
  have room : s.own.queue.length < Config.ownPlaces := by rw [seven]; decide
  have issued : ({ s with own := { s.own with engine := rest } } : State).engineIssue x =
      { s.readIssued x.tag with own := { s.own with queue := s.own.queue ++ [x], engine := rest } } := by
    rw [State.engineIssue_joins { s with own := { s.own with engine := rest } } x room]
    cases x.tag <;> rfl
  unfold State.engineGiven
  rw [h]
  dsimp only
  rw [issued]
  cases rest with
  | nil => simp [State.engineFlush, none]
  | cons y more =>
    have full : ({ s.readIssued x.tag with own := { s.own with queue := s.own.queue ++ [x], engine := y :: more } } :
        State).placeFree = false := State.placeFree_full _ (length_joined seven x)
    simp only [List.length_cons, State.engineFlush, full, if_false, Bool.false_eq_true, reduceCtorEq]
    refine (State.beginWait_first _ _ (by exact none)).trans ?_
    cases x.tag <;> rfl

/-- The next zero record takes the last place, and with more the unit waits again. -/
theorem State.queueZeros_last (more : 0 < s.zeroToQueue) :
    State.queueZeros 16 true s =
      { s with
        zeroToQueue := s.zeroToQueue - 1
        own := { s.own with
          queue := s.own.queue ++
            [{ tag := .zeroRecord, addr := BitVec.ofNat 40 (s.zeroAddress (16 - s.zeroToQueue)), count := 64
               data := zeroBytes 64 }]
          waiters := if s.zeroToQueue = 1 then [] else [(.zeroRecords, s.eventNumber)] } } := by
  have room : s.own.queue.length < Config.ownPlaces := by rw [seven]; decide
  rw [State.queueZeros, if_pos more, Bool.true_or, if_pos rfl]
  dsimp only
  rw [State.pushOwn_joins]
  case room => exact room
  rw [State.queueZeros, State.placeFree_full]
  case full => exact length_joined seven _
  dsimp only
  by_cases last : s.zeroToQueue = 1
  · rw [if_neg (by omega), if_pos last, ← none]
  · rw [if_pos (by omega), Bool.or_false, if_neg Bool.false_ne_true, if_neg last]
    exact State.beginWait_first _ _ (by exact none)

omit none in
/-- The next half of the record takes the last place, and after the first the close waits again. -/
theorem State.queueHalves_last (k : Fin 4) (more : (s.billet k).halvesQueued < 2) :
    State.queueHalves k 2 true s =
      if (s.billet k).halvesQueued = 0 then (s.queueHalf k).beginWait (.close k) else s.queueHalf k := by
  have queued : ((s.queueHalf k).billet k).halvesQueued = (s.billet k).halvesQueued + 1 := by
    unfold State.queueHalf
    simp
  have full : (s.queueHalf k).placeFree = false := by
    have room : s.own.queue.length < Config.ownPlaces := by rw [seven]; decide
    unfold State.queueHalf
    dsimp only
    rw [State.pushOwn_joins s _ room]
    exact State.placeFree_full _ (length_joined seven _)
  rw [State.queueHalves, if_pos more, Bool.true_or, if_pos rfl, State.queueHalves, full, queued]
  by_cases first : (s.billet k).halvesQueued = 0
  · rw [if_pos first, if_pos (by omega)]
    rfl
  · rw [if_neg first, if_neg (by omega)]

omit none in
/-- A half joins the queue with a place. -/
theorem State.queueHalf_joins (k : Fin 4) :
    let b := s.billet k
    let base := s.bankBase k b.published.other
    s.queueHalf k =
      { State.withStrand s k { s.strand k with billet := { b with halvesQueued := b.halvesQueued + 1 } } with
        own := { s.own with queue := s.own.queue ++
          [if b.halvesQueued = 0 then
            { tag := .billetHalf k, addr := BitVec.ofNat 40 base, count := 64, data := billetFirstHalf k b.working }
          else
            { tag := .billetHalf k, addr := BitVec.ofNat 40 (base + 64), count := 64
              data := billetSecondHalf k b.working }] } } := by
  have room : s.own.queue.length < Config.ownPlaces := by rw [seven]; decide
  unfold State.queueHalf
  dsimp only
  rw [State.pushOwn_joins s _ room]
  rfl

end

/-- A place given to a close whose entries are being taken. -/
theorem State.closeGiven_taking (s : State) (k : Fin 4) (h : (s.billet k).close = .taking) :
    s.closeGiven k = s.continueTaking k true := by
  unfold State.closeGiven
  rw [h]

/-- A place given to a close whose record is being written. -/
theorem State.closeGiven_recording (s : State) (k : Fin 4) (h : (s.billet k).close = .recording) :
    s.closeGiven k = State.queueHalves k 2 true s := by
  unfold State.closeGiven
  rw [h]

/-! ### The Status Writer's place (R180) -/

/-- The Status Writer issues its lowest-numbered block that qualifies. -/
theorem State.statusGiven_lowest (s : State) (b : Fin 22) (first : (s.mark b).qualifies = true)
    (lower : ∀ j, j < b → (s.mark j).qualifies = false) : s.statusGiven = s.issueBlock b := by
  have found : ((List.finRange 22).find? fun b => (s.mark b).qualifies) = some b := by
    refine List.find?_eq_some_iff_getElem.mpr ⟨first, b.val, by simp, by simp, fun j hj => ?_⟩
    simpa using lower ⟨j, by omega⟩ (Fin.lt_def.mpr hj)
  unfold State.statusGiven
  rw [found]

/-- The issue of a block with a place in the queue, but for marks. -/
theorem State.issueBlock_joins (s : State) (b : Fin 22) (room : s.own.queue.length < Config.ownPlaces) :
    ∃ m, s.issueBlock b =
      { s with
        marks := m
        causes := { s.causes with carried := if b = 0 then s.causes.pending else s.causes.carried }
        own := { s.own with queue := s.own.queue ++
          [{ tag := .statusBlock b, addr := BitVec.ofNat 40 (s.ctlBase + 0x4000 + b.val * 64), count := 64
             data := statusBytes s b ((s.mark b).sequence + 1) }] } } := by
  refine ⟨(s.setMark b (s.mark b).atIssue).marks, ?_⟩
  unfold State.issueBlock
  dsimp only
  rw [State.pushOwn_joins (s.setMark b _) _ room]
  by_cases h : b = 0
  · rw [if_pos h, if_pos h]
    rfl
  · rw [if_neg h, if_neg h]
    rfl

/-- What an event's end leaves of the marks of a block that is outstanding and whose fields the event left. -/
theorem State.settled_mark_outstanding (new old : State) (b : Fin 22) (out : (new.mark b).outstanding = true)
    (same : blockChanged old new b = false) (travel : travelChanged old new b = false) :
    (new.settled old).mark b = new.mark b := by
  have marked : (new.markChanges old).mark b = new.mark b := by
    rw [State.markChanges_mark, same, travel, Bool.or_false, Bool.or_false]
  obtain left | ⟨qualifies, -⟩ := (new.markChanges old).issueBlocks_mark (List.finRange 22) b
  · exact left.trans marked
  · simp [marked, BlockMarks.qualifies, out] at qualifies

/-- Nothing has changed between a state and itself. -/
theorem blockChanged_self (s : State) (b : Fin 22) : blockChanged s s b = false ∧ travelChanged s s b = false := by
  unfold blockChanged travelChanged
  constructor
  · split
    · simp
    · split
      · simp
      · split <;> simp
  · split
    · rfl
    · split <;> simp

/-- No block shows what the Status Writer changes: marks, the causes carried, and the own traffic. -/
theorem blockChanged_writer (s : State) (b : Fin 22) (m : Vector BlockMarks 22) (c : BitVec 14) (o : Own) :
    blockChanged s { s with marks := m, causes := { s.causes with carried := c }, own := o } b = false ∧
      travelChanged s { s with marks := m, causes := { s.causes with carried := c }, own := o } b = false :=
  blockChanged_self s b

end Sys2Proof.Machine

open Sys2Proof Sys2Proof.Machine

/-! ### The statement -/

/-- Settles O16: the place goes to a longest waiter, and each unit's use of the last place has its equation above. -/
theorem placeGoesToTheWaitingUnit : Obligations.PlaceGoesToTheWaitingUnit := by
  have room {s : State} (seven : s.own.queue.length = 7) : s.opened.own.queue.length < Config.ownPlaces := by
    rw [State.opened_own, seven]; decide
  refine ⟨?waiter, ?status, ?evidence, ?zeros, ?close⟩
  case waiter =>
    intro s hl short waiting
    obtain ⟨x, mem, least, c, given⟩ := s.opened.placeGiven_spec (Nat.lt_succ_of_le short) waiting
    exact ⟨x, mem, least, c, .of_event rfl hl given⟩
  case status =>
    intro s n b hl seven only first lower
    have given : s.opened.placeGiven = ({ s.opened with own := { s.own with waiters := [] } } : State).issueBlock b :=
      (s.opened.placeGiven_only (room seven) only).trans (State.statusGiven_lowest _ b first lower)
    obtain ⟨m, issued⟩ :=
      State.issueBlock_joins { s.opened with own := { s.own with waiters := [] } } b (room seven)
    have event : s.event State.placeGiven = (s.opened.placeGiven).settled s.opened := if_neg (by simp [hl])
    refine ⟨_, rfl, ?_, ?_⟩
    · refine .trans ?_ (s.event_settles _ hl)
      rw [given, issued]
      exact .ofMarks _ m
    · have marked : s.opened.placeGiven.mark b = (s.mark b).atIssue := by
        rw [given, State.issueBlock_mark, if_pos rfl]
        rfl
      obtain ⟨same, travel⟩ : blockChanged s.opened s.opened.placeGiven b = false ∧
          travelChanged s.opened s.opened.placeGiven b = false := by
        rw [given, issued]
        exact blockChanged_writer s.opened b m _ _
      rw [event, State.settled_mark_outstanding _ _ b (by rw [marked]; rfl) same travel, marked]
      rfl
  case evidence =>
    intro s n x rest hl seven only engine joined
    have given := (s.opened.placeGiven_only (room seven) only).trans
      (State.engineGiven_last (s := { s.opened with own := { s.own with waiters := [] } }) seven rfl engine)
    refine ⟨fun write => .of_event rfl hl ?_, fun i m read => .of_event rfl hl ?_⟩
    · rw [given, State.readIssued_write _ write]
      rfl
    · rw [given, read]
      rfl
  case zeros =>
    intro s n hl seven only more z
    exact .of_event rfl hl ((s.opened.placeGiven_only (room seven) only).trans
      (State.queueZeros_last (s := { s.opened with own := { s.own with waiters := [] } }) seven rfl more))
  case close =>
    intro s n k hl seven only y bank ended half
    have given : s.opened.placeGiven = ended.closeGiven k := s.opened.placeGiven_only (room seven) only
    have joins := State.queueHalf_joins (s := ended) seven k
    refine ⟨fun taking => .of_event rfl hl (given.trans (ended.closeGiven_taking k taking)),
      fun recording none => .of_event rfl hl ?first, fun recording one => .of_event rfl hl ?second⟩
    case first =>
      have none_ : (ended.billet k).halvesQueued = 0 := none
      rw [given, ended.closeGiven_recording k recording, State.queueHalves_last (s := ended) seven k (by omega), if_pos none_, joins,
        State.beginWait_first]
      case none => rfl
      rw [if_pos none_, none_]
      rfl
    case second =>
      have one_ : (ended.billet k).halvesQueued = 1 := one
      rw [given, ended.closeGiven_recording k recording, State.queueHalves_last (s := ended) seven k (by omega), if_neg (by omega), joins,
        if_neg (by omega), one_]
      rfl

end

-- ==== The memory path: the return of responses (R7) ====
section
/-!
PROOFS. The pass that returns responses (R7): what it says of the records that stay and of the responses returned, for any IDs and
kinds that stay from before; the statement is the case of none.
-/
namespace Sys2Proof.Machine

/-! ### A record by what the pass does with it -/

section
variable {blocked : List (Dir × Id)} {r : Rec} {rest : List Rec}

/-- A record not yet answered stays, and so does all behind it of its ID and kind. -/
theorem returnPass_unanswered (h : r.response = none) : returnPass blocked (r :: rest) =
    (r :: (returnPass ((r.dir, r.id) :: blocked) rest).1, (returnPass ((r.dir, r.id) :: blocked) rest).2) := by
  rw [returnPass, h]

/-- An answered record behind one of its ID and kind stays. -/
theorem returnPass_blocked {a : Resp × List Byte} (h : r.response = some a) (b : (r.dir, r.id) ∈ blocked) :
    returnPass blocked (r :: rest) = (r :: (returnPass blocked rest).1, (returnPass blocked rest).2) := by
  rw [returnPass, h]
  exact if_pos (List.contains_iff_mem.mpr b)

/-- Any other answered record's response is returned. -/
theorem returnPass_returned {a : Resp × List Byte} (h : r.response = some a) (b : (r.dir, r.id) ∉ blocked) :
    returnPass blocked (r :: rest) =
      ((returnPass blocked rest).1, { dir := r.dir, id := r.id, resp := a.1, data := a.2 } :: (returnPass blocked rest).2) := by
  rw [returnPass, h]
  exact if_neg fun c => b (List.contains_iff_mem.mp c)

end

/-- The records of an ID and kind. -/
def ofIdKind (d : Dir) (i : Id) (r : Rec) : Bool := r.dir == d && r.id == i

theorem ofIdKind_iff {d : Dir} {i : Id} {r : Rec} : ofIdKind d i r = true ↔ (r.dir, r.id) = (d, i) := by
  simp [ofIdKind]

/-! ### What the pass leaves -/

/-- The records that stay are records of the list, in its order; the others have their responses returned. -/
theorem returnPass_sublist (blocked : List (Dir × Id)) (l : List Rec) :
    (returnPass blocked l).1.Sublist l ∧
      (returnPass blocked l).1.length + (returnPass blocked l).2.length = l.length := by
  induction l generalizing blocked with
  | nil => exact ⟨.slnil, rfl⟩
  | cons r rest ih =>
    cases h : r.response with
    | none =>
      obtain ⟨sub, len⟩ := ih ((r.dir, r.id) :: blocked)
      rw [returnPass_unanswered h]
      exact ⟨sub.cons_cons r, by simp only [List.length_cons]; omega⟩
    | some a =>
      obtain ⟨sub, len⟩ := ih blocked
      by_cases b : (r.dir, r.id) ∈ blocked
      · rw [returnPass_blocked h b]
        exact ⟨sub.cons_cons r, by simp only [List.length_cons]; omega⟩
      · rw [returnPass_returned h b]
        exact ⟨sub.cons r, by simp only [List.length_cons]; omega⟩

/-- An answered record that stays stands behind one of its ID and kind that stays. -/
theorem returnPass_stays (blocked : List (Dir × Id)) (l : List Rec) (i : Nat) (r : Rec)
    (h : (returnPass blocked l).1[i]? = some r) (answered : r.response ≠ none) :
    (r.dir, r.id) ∈ blocked ∨
      ∃ (j : Nat) (x : Rec), j < i ∧ (returnPass blocked l).1[j]? = some x ∧ x.dir = r.dir ∧ x.id = r.id := by
  induction l generalizing blocked i with
  | nil => cases h
  | cons x rest ih =>
    -- A record found further on, behind a record that stays.
    have behind {b : List (Dir × Id)} {n : Nat} (old : (returnPass blocked (x :: rest)).1 = x :: (returnPass b rest).1)
        (le : ∀ y ∈ b, y = (x.dir, x.id) ∨ y ∈ blocked) (g : (returnPass b rest).1[n]? = some r) :
        (r.dir, r.id) ∈ blocked ∨ ∃ (j : Nat) (y : Rec), j < n + 1 ∧
          (returnPass blocked (x :: rest)).1[j]? = some y ∧ y.dir = r.dir ∧ y.id = r.id := by
      rw [old]
      obtain inside | ⟨j, y, lt, found, dir, id⟩ := ih b n g
      · obtain own | before := le _ inside
        · obtain ⟨dir, id⟩ := Prod.mk.inj own
          exact .inr ⟨0, x, Nat.succ_pos n, rfl, dir.symm, id.symm⟩
        · exact .inl before
      · exact .inr ⟨j + 1, y, Nat.succ_lt_succ lt, found, dir, id⟩
    cases hx : x.response with
    | none =>
      have eq := returnPass_unanswered (blocked := blocked) (rest := rest) hx
      cases i with
      | zero =>
        rw [eq] at h
        cases h
        exact absurd hx answered
      | succ n => exact behind (congrArg Prod.fst eq) (fun y hy => List.mem_cons.mp hy) (by rwa [eq] at h)
    | some a =>
      by_cases b : (x.dir, x.id) ∈ blocked
      · have eq := returnPass_blocked (rest := rest) hx b
        cases i with
        | zero =>
          rw [eq] at h
          cases h
          exact .inl b
        | succ n => exact behind (congrArg Prod.fst eq) (fun y hy => .inr hy) (by rwa [eq] at h)
      · rw [returnPass_returned hx b] at h ⊢
        exact ih blocked i h

/-- Of the records of one ID and kind the first are returned, in order, and the others stay; none where that ID and kind is
blocked from before. -/
theorem returnPass_ofIdKind (d : Dir) (i : Id) (blocked : List (Dir × Id)) (l : List Rec) :
    ∃ k, ((returnPass blocked l).2.filter fun x => x.dir == d && x.id == i).map (fun x => (x.resp, x.data)) =
        ((l.filter (ofIdKind d i)).take k).filterMap (·.response) ∧
      (returnPass blocked l).1.filter (ofIdKind d i) = (l.filter (ofIdKind d i)).drop k ∧
      ((d, i) ∈ blocked → k = 0) := by
  induction l generalizing blocked with
  | nil => exact ⟨0, rfl, rfl, fun _ => rfl⟩
  | cons r rest ih =>
    cases h : r.response with
    | none =>
      obtain ⟨k, back, stay, zero⟩ := ih ((r.dir, r.id) :: blocked)
      rw [returnPass_unanswered h]
      by_cases own : ofIdKind d i r = true
      · have k0 := zero (ofIdKind_iff.mp own ▸ List.mem_cons_self)
        subst k0
        refine ⟨0, back, ?_, fun _ => rfl⟩
        rw [List.filter_cons_of_pos own, List.filter_cons_of_pos own, stay]
        rfl
      · refine ⟨k, ?_, ?_, fun mem => zero (List.mem_cons_of_mem _ mem)⟩
        · rw [List.filter_cons_of_neg own, back]
        · rw [List.filter_cons_of_neg own, List.filter_cons_of_neg own, stay]
    | some a =>
      obtain ⟨k, back, stay, zero⟩ := ih blocked
      by_cases b : (r.dir, r.id) ∈ blocked
      · rw [returnPass_blocked h b]
        by_cases own : ofIdKind d i r = true
        · have k0 := zero (ofIdKind_iff.mp own ▸ b)
          subst k0
          refine ⟨0, back, ?_, fun _ => rfl⟩
          rw [List.filter_cons_of_pos own, List.filter_cons_of_pos own, stay]
          rfl
        · refine ⟨k, ?_, ?_, zero⟩
          · rw [List.filter_cons_of_neg own, back]
          · rw [List.filter_cons_of_neg own, List.filter_cons_of_neg own, stay]
      · rw [returnPass_returned h b]
        by_cases own : ofIdKind d i r = true
        · refine ⟨k + 1, ?_, ?_, fun mem => absurd (ofIdKind_iff.mp own ▸ mem) b⟩
          · rw [List.filter_cons_of_pos (by exact own), List.filter_cons_of_pos own, List.take_succ_cons,
              List.filterMap_cons_some h, List.map_cons, back]
          · rw [List.filter_cons_of_pos own, List.drop_succ_cons, stay]
        · refine ⟨k, ?_, ?_, zero⟩
          · rw [List.filter_cons_of_neg (by exact own), List.filter_cons_of_neg own, back]
          · rw [List.filter_cons_of_neg own, stay]

end Sys2Proof.Machine

open Sys2Proof Sys2Proof.Machine

/-! ### The statement -/

/-- Settles O17: the pass begins with nothing blocked. -/
theorem responsesReturnInOrder : Obligations.ResponsesReturnInOrder := by
  refine fun l => ⟨fun i r h answered => ?_, (returnPass_sublist [] l).1, (returnPass_sublist [] l).2, fun d i => ?_⟩
  · exact (returnPass_stays [] l i r h answered).resolve_left List.not_mem_nil
  · obtain ⟨k, back, stay, -⟩ := returnPass_ofIdKind d i [] l
    exact ⟨k, back, stay⟩

end

-- ==== The memory path: responses to forwarded pieces (R10, R15, R18) ====
section
/-!
PROOFS. A response to a forwarded piece (R15, R18): the piece answered, the transaction's response when it becomes known, and what
a captured write and a Control Page write then do (R10, R38).
-/
namespace Sys2Proof.Machine

/-- The state with the answered piece off the issued list and its record replaced in the table. -/
def State.withAnswered (s : State) (x : Nat × Nat) (r : Rec) : State :=
  { s with path := { s.path with
      issued := s.path.issued.filter fun y => y != x
      table := s.path.table.map fun y => if y.seq = x.1 then r else y } }

/-- A record is found by its number. -/
theorem State.record_seq {s : State} {q : Nat} {r : Rec} (h : s.record q = some r) : r.seq = q :=
  beq_iff_eq.mp (List.find?_some (p := fun r : Rec => r.seq == q) h)

section
variable {s : State} {dir : Dir} {id : Id} {resp : Resp} {data : List Byte} {q i : Nat} {r : Rec}
variable (answers : s.answered dir id = some (q, i)) (found : s.record q = some r) (fits : r.dataFits i data = true)
include answers found fits

/-- A response that leaves other pieces to be answered is kept with its piece. -/
theorem State.forwardedAnswer_open (more : (r.answerPiece i resp data).joined = none) :
    s.forwardedAnswer dir id resp data =
      (s.withAnswered (q, i) (r.answerPiece i resp data)).returnResponses.takePresented := by
  unfold State.forwardedAnswer
  rw [answers]
  dsimp only
  rw [found]
  dsimp only
  rw [if_pos fits, more]
  rfl

/-- A response that answers the last piece makes the transaction's known. -/
theorem State.forwardedAnswer_known {a : Resp × List Byte} (last : (r.answerPiece i resp data).joined = some a) :
    s.forwardedAnswer dir id resp data =
      ((s.withAnswered (q, i) (r.answerPiece i resp data)).responseKnown (r.answerPiece i resp data)
        a).returnResponses.takePresented := by
  unfold State.forwardedAnswer
  rw [answers]
  dsimp only
  rw [found]
  dsimp only
  rw [if_pos fits, last]
  rfl

end

/-- The response enters the record that was answered. -/
theorem State.withAnswered_known (s : State) {x : Nat × Nat} {r : Rec} (h : r.seq = x.1) (a : Resp × List Byte) :
    (s.withAnswered x r).modRec r.seq (fun y => { y with response := some a }) =
      s.withAnswered x { r with response := some a } := by
  unfold State.modRec State.withAnswered
  simp only [List.map_map]
  congr 2
  refine List.map_congr_left fun y _ => ?_
  simp only [Function.comp]
  by_cases own : y.seq = x.1
  · rw [if_pos own, if_pos own, if_pos rfl]
  · rw [if_neg own, if_neg (h ▸ own), if_neg own]

/-- Of a transaction that is no capture in error and no Control Page write nothing else follows. -/
theorem State.responseKnown_plain (s : State) {r : Rec} {a : Resp × List Byte} (face : r.face = none ∨ a.1 = .okay)
    (page : r.controlPage = false) :
    s.responseKnown r a = s.modRec r.seq fun x => { x with response := some a } := by
  have silent (t : State) : t.reportCapture r a.1 = t := by
    obtain none | okay := face
    · unfold State.reportCapture
      rw [none]
      cases a.1 <;> rfl
    · rw [okay]
      rfl
  unfold State.responseKnown State.controlAnswered
  simp only [silent, page, Bool.false_eq_true, if_false]

/-- The record of an only piece, answered. -/
theorem Rec.answerPiece_only {r : Rec} {p : Piece} (only : r.pieces = [p]) (resp : Resp) (data : List Byte) :
    r.answerPiece 0 resp data = { r with pieces := [{ p with answer := some (resp, data) }] } := by
  unfold Rec.answerPiece
  rw [only]
  rfl

/-- The response of an only piece is the transaction's. -/
theorem Rec.joined_only {r : Rec} {p : Piece} (only : r.pieces = [p]) (resp : Resp) (data : List Byte) :
    (r.answerPiece 0 resp data).joined = some (resp, data) := by
  rw [Rec.answerPiece_only only]
  cases resp <;> simp [Rec.joined]

/-- The table with an only piece answered, as the statements write it. -/
theorem State.withAnswered_only {s : State} {q : Nat} {r : Rec} {p : Piece} (found : r.seq = q)
    (only : r.pieces = [p]) (resp : Resp) (data : List Byte) :
    s.withAnswered (q, 0) { r.answerPiece 0 resp data with response := some (resp, data) } =
      { s with path := { s.path with
          issued := s.path.issued.filter fun x => x != (q, 0), table := s.answeredTable r p resp data } } := by
  rw [Rec.answerPiece_only only]
  unfold State.withAnswered State.answeredTable
  rw [found]

/-- When every piece is answered the response is ERROR where any piece's is, with their data joined in order (R18). -/
theorem Rec.joined_eq (r : Rec) : r.joined =
    if ∀ p ∈ r.pieces, p.answer ≠ none then
      some (if r.pieces.any fun p => p.answer.any fun a => a.1 == .error then .error else .okay,
        (r.pieces.map fun p => match p.answer with
          | none => []
          | some a => a.2).flatten)
    else none := by
  have all : (r.pieces.all fun p => p.answer.isSome) = true ↔ ∀ p ∈ r.pieces, p.answer ≠ none := by
    simp [Option.isSome_iff_ne_none]
  have data : (fun p : Piece => (p.answer.map (·.2)).getD []) = fun p => match p.answer with
      | none => []
      | some a => a.2 := by
    funext p
    cases p.answer <;> rfl
  unfold Rec.joined
  rw [List.flatMap_def, data]
  by_cases h : ∀ p ∈ r.pieces, p.answer ≠ none
  · rw [if_pos (all.mpr h), if_pos h]
  · rw [if_neg (h ∘ all.mp), if_neg h]

/-- The ERROR response of a captured write reaches its face's head. -/
theorem State.responseKnown_captured (s : State) {r : Rec} {k : Fin 16} (face : r.face = some k)
    (page : r.controlPage = false) (data : List Byte) :
    s.responseKnown r (.error, data) =
      State.captureError (s.modRec r.seq fun x => { x with response := some (.error, data) }) k := by
  unfold State.responseKnown State.controlAnswered State.reportCapture
  rw [page, face]
  rfl

/-- The Control Page write in flight is answered. -/
theorem State.responseKnown_page (s : State) {r : Rec} (face : r.face = none) (page : r.controlPage = true)
    (a : Resp × List Byte) :
    let b := s.modRec r.seq fun x => { x with response := some a }
    let u : State := { b with path := { b.path with controlInFlight := none } }
    s.responseKnown r a =
      match a.1 with
      | .okay => u.applyControl (coveredCells (r.addr.toNat - s.ctlBase) r.data r.strobes)
      | .error => u := by
  intro b u
  obtain ⟨resp, data⟩ := a
  unfold State.responseKnown State.controlAnswered State.reportCapture
  rw [page, face]
  cases resp <;> rfl

end Sys2Proof.Machine

open Sys2Proof Sys2Proof.Machine

/-! ### The statement -/

/-- Settles O18: the answer of a piece by whether it is the last, and what the transaction then is. -/
theorem forwardedResponseReturns : Obligations.ForwardedResponseReturns := by
  refine ⟨?only, ?split, ?captured⟩
  case only =>
    intro s dir id resp data q r p hl quiet answers found pieces fits face page
    refine .of_event rfl hl ?_
    have seq : (r.answerPiece 0 resp data).seq = (q, 0).1 := (State.record_seq found : r.seq = q)
    rw [State.forwardedAnswer_known (s := s.opened) answers found fits (Rec.joined_only pieces resp data),
      State.responseKnown_plain (r := r.answerPiece 0 resp data) (a := (resp, data)) _ face page,
      State.withAnswered_known _ seq, State.withAnswered_only (State.record_seq found) pieces]
    exact State.takePresented_none _ quiet.1 quiet.2
  case split =>
    intro s id resp data q i r hl quiet answers found read fits face page pieces known table
    refine .of_event rfl hl ?_
    have joined := Rec.joined_eq (r.answerPiece i resp data)
    have seq : (r.answerPiece i resp data).seq = (q, i).1 := (State.record_seq found : r.seq = q)
    have kept : s.opened.forwardedAnswer .read id resp data =
        (s.opened.withAnswered (q, i) { r with pieces := pieces, response := known }).returnResponses.takePresented := by
      by_cases all : ∀ p ∈ pieces, p.answer ≠ none
      · rw [State.forwardedAnswer_known (s := s.opened) answers found fits (joined.trans (if_pos all)),
          State.responseKnown_plain (r := r.answerPiece i resp data) _ (.inl face) page, State.withAnswered_known _ seq]
        simp only [known, if_pos all]
        rfl
      · rw [State.forwardedAnswer_open (s := s.opened) answers found fits (joined.trans (if_neg all))]
        simp only [known, if_neg all]
        rfl
    rw [kept]
    exact State.takePresented_none _ quiet.1 quiet.2
  case captured =>
    intro s id q r p k hl answers found write pieces face page x b
    refine .of_event rfl hl ?_
    have seq : (r.answerPiece 0 .error []).seq = (q, 0).1 := (State.record_seq found : r.seq = q)
    have fits : r.dataFits 0 [] = true := by
      unfold Rec.dataFits
      rw [write]
      rfl
    rw [State.forwardedAnswer_known (s := s.opened) answers found fits (Rec.joined_only pieces .error []),
      State.responseKnown_captured (r := r.answerPiece 0 .error []) _ face page,
      State.withAnswered_known _ seq, State.withAnswered_only (State.record_seq found) pieces]
    rfl

/-! ### Control Page writes at their OKAY (R174, R177) -/

namespace Sys2Proof.Machine

/-- A change made for each thing that a test names is made for those in turn. -/
theorem State.forEach_eq {α : Type} (test : α → Bool) (f : State → α → State) (l : List α) (s : State) :
    State.forEach test f l s = (l.filter test).foldl f s := by
  induction l generalizing s with
  | nil => rfl
  | cons a rest ih =>
    rw [State.forEach, ih]
    by_cases h : test a = true
    · rw [if_pos h, List.filter_cons_of_pos h, List.foldl_cons]
    · rw [if_neg h, List.filter_cons_of_neg h]

/-- Several bytes are written one after another. -/
theorem Memory.writeAll_eq (m cells : List Host.Cell) :
    Memory.writeAll m cells = cells.foldl (fun a c => Memory.write a c.1 c.2) m := by
  induction cells generalizing m with
  | nil => rfl
  | cons c rest ih => exact ih _

/-- The merge writes the bytes of every area but the action words (R174, R177). -/
theorem merged_eq (m cells : List Host.Cell) : merged m cells =
    (cells.filter fun c => decide (c.1 < 0x110 ∨ 0x400 ≤ c.1 ∧ c.1 < 0xE80)).foldl (fun a c => Memory.write a c.1 c.2) m := by
  have areas : (fun c : Host.Cell => shadowed c.1) = fun c => decide (c.1 < 0x110 ∨ 0x400 ≤ c.1 ∧ c.1 < 0xE80) := by
    funext c
    simp [shadowed]
  unfold merged
  rw [Memory.writeAll_eq, areas]

/-- The Global Enable field is its byte. -/
theorem globals_enable_iff (m : List Host.Cell) (b : Byte) : (globals m).enable = b.toNat ↔ Memory.read m 0 = b := by
  rw [globals_enable, BitVec.toNat_inj]

/-- Global Enable takes effect where the byte has changed the part's place (R172, R173). -/
theorem State.globalEffect_eq (s : State) (m : List Host.Cell) : s.globalEffect m =
    if s.part = .pass ∧ Memory.read s.shadow 0 = 1 then s.enterStarting
    else if s.part = .run ∧ Memory.read m 0 = 1 ∧ Memory.read s.shadow 0 = 0 then s.enterPass
    else s := by
  have one (m : List Host.Cell) : (Machine.globals m).enable = 1 ↔ Memory.read m 0 = 1 := globals_enable_iff m 1
  have zero (m : List Host.Cell) : (Machine.globals m).enable = 0 ↔ Memory.read m 0 = 0 := globals_enable_iff m 0
  unfold State.globalEffect
  simp only [State.globals, one, zero]

/-- A shadow taken is the state's shadow. -/
@[simp] theorem State.takeShadow_shadow (s : State) (m : List Host.Cell) : (s.takeShadow m).shadow = m := by
  unfold State.takeShadow
  dsimp only
  split <;> rfl

/-- How a write covers an action word, by the bytes it gives it. -/
theorem performActions_eq (cells : List Host.Cell) (l : List (Fin 7)) (s : State) :
    let word (n : Nat) : List Byte :=
      (cells.filter fun c => decide (0x200 + n * 8 ≤ c.1 ∧ c.1 < 0x208 + n * 8)).map (·.2)
    State.performActions cells l s = l.foldl
      (fun u n => if (word n.val).length = 8 then u.performAction (actionWord n (word n.val)) else u) s := by
  intro word
  have inWord (n : Fin 7) : (cells.filter fun c => actionAt n.val ≤ c.1 && c.1 < actionAt n.val + 8).map (·.2) =
      word n.val := by
    refine congrArg (List.map _) (List.filter_congr fun c _ => ?_)
    rw [← Bool.decide_and]
    exact decide_eq_decide.mpr (by unfold actionAt; omega)
  induction l generalizing s with
  | nil => rfl
  | cons n rest ih =>
    rw [List.foldl_cons, ← ih, ← inWord n, List.length_map]
    rw [State.performActions]
    unfold wordCover
    dsimp only
    by_cases none : (cells.filter fun c => actionAt n.val ≤ c.1 && c.1 < actionAt n.val + 8).isEmpty = true
    · rw [if_pos none, List.isEmpty_iff.mp none]
      rfl
    · rw [if_neg none]
      by_cases whole : (cells.filter fun c => actionAt n.val ≤ c.1 && c.1 < actionAt n.val + 8).length = 8
      · rw [if_pos whole, if_pos whole]
      · rw [if_neg whole, if_neg whole]

/-- The strand that a byte below 4 names, and the channel that one below 16 does. -/
theorem strandArg_some (b : Byte) (h : b.toNat < 4) : strandArg b = some ⟨b.toNat, h⟩ := dif_pos h

theorem channelArg_some (b : Byte) (h : b.toNat < 16) : channelArg b = some ⟨b.toNat, h⟩ := dif_pos h

theorem State.onStrandArg_some (s : State) {b : Byte} {k : Fin 4} (h : strandArg b = some k) (f : State → Fin 4 → State) :
    s.onStrandArg b f = f s k := by
  unfold State.onStrandArg
  rw [h]

theorem State.onStrandArg_none (s : State) {b : Byte} (h : strandArg b = none) (f : State → Fin 4 → State) :
    s.onStrandArg b f = s := by
  unfold State.onStrandArg
  rw [h]

theorem State.onChannelArg_some (s : State) {b : Byte} {k : Fin 16} (h : channelArg b = some k)
    (f : State → Fin 16 → State) : s.onChannelArg b f = f s k := by
  unfold State.onChannelArg
  rw [h]

theorem State.onChannelArg_none (s : State) {b : Byte} (h : channelArg b = none) (f : State → Fin 16 → State) :
    s.onChannelArg b f = s := by
  unfold State.onChannelArg
  rw [h]

/-- STRAND START is taken in RUN of an IDLE strand whose settings are in their ranges (R47). -/
theorem State.checkStart_none (s : State) {b : Byte} {k : Fin 4} (h : strandArg b = some k) (run : s.part = .run)
    (idle : (s.unit k).state = .idle) (ok : (s.settings k).ok = true) : s.checkStart b = none := by
  unfold State.checkStart
  rw [h]
  simp [firstReason, failIf, run, idle, ok]

/-- STRAND STOP and CUT NOW are taken of a moving strand (R47). -/
theorem State.checkMoving_none (s : State) {b : Byte} {k : Fin 4} (h : strandArg b = some k)
    (moving : (s.unit k).state = .casting ∨ (s.unit k).state = .held) : s.checkMoving b = none := by
  unfold State.checkMoving
  rw [h]
  simp [failIf, (StrandUnit.moving_iff _).mpr moving]

/-- HEAD RESTART is taken of an OFF head (R41). -/
theorem State.checkRestart_none (s : State) {b : Byte} {k : Fin 16} (h : channelArg b = some k)
    (off : (s.face k).head.state = .off) : s.checkRestart b = none := by
  unfold State.checkRestart
  rw [h]
  simp [failIf, off]

end Sys2Proof.Machine

/-! ### The statement -/

/-- Settles O19: the answer gives up the place; the merge and the actions are folds over what the write covers. -/
theorem controlWriteTakesEffectAtOkay : Obligations.ControlWriteTakesEffectAtOkay := by
  refine ⟨?answer, ?merge, ?actions, ?words, ?commands⟩
  case answer =>
    intro s id resp q r p hl answers found write pieces face page b
    refine .of_event rfl hl ?_
    have seq : (r.answerPiece 0 resp []).seq = (q, 0).1 := (State.record_seq found : r.seq = q)
    have fits : r.dataFits 0 [] = true := by
      unfold Rec.dataFits
      rw [write]
      rfl
    rw [State.forwardedAnswer_known (s := s.opened) answers found fits (Rec.joined_only pieces resp []),
      State.responseKnown_page (r := r.answerPiece 0 resp []) _ face page,
      State.withAnswered_known _ seq, State.withAnswered_only (State.record_seq found) pieces]
    cases resp <;> rfl
  case merge =>
    intro s cells m m' on filterOn closed taken masked moved opened
    have shadow : merged s.shadow cells = m' := merged_eq _ _
    unfold State.mergeControl
    dsimp only
    simp only [State.forEach_eq, State.globalEffect_eq, shadow, State.takeShadow_shadow]
    rfl
  case actions => exact fun s cells => performActions_eq cells _ _
  case words =>
    intro s b rest bytes
    refine ⟨fun h => ⟨s.onStrandArg_some (strandArg_some b h) _, s.onStrandArg_some (strandArg_some b h) _,
      s.onStrandArg_some (strandArg_some b h) _⟩, fun h n hn => ?_, fun h => s.onChannelArg_some (channelArg_some b h) _,
      fun h => s.onChannelArg_none (channelArg_none b h) _, rfl, rfl, rfl⟩
    obtain rfl | rfl | rfl : n = 0 ∨ n = 1 ∨ n = 2 := by omega
    · exact s.onStrandArg_none (strandArg_none b h) _
    · exact s.onStrandArg_none (strandArg_none b h) _
    · exact s.onStrandArg_none (strandArg_none b h) _
  case commands =>
    intro s hl free
    have taken {c : Instr} {off : Nat} {f : State → State} {e : State → Option Reason} {b : State}
        (he : exec c s = .next (s.event fun t => t.control off (e t) f)) (ok : e s.opened = none) (hb : f s.opened = b) :
        Answers c s b := .of_control_taken s he hl free ok (hb ▸ .refl _)
    refine ⟨fun k => ⟨fun run idle ok => ?_, fun moving => ⟨?_, ?_⟩⟩, fun k off => ?_, fun _ => taken rfl rfl rfl,
      fun _ => taken rfl rfl rfl, fun _ => taken rfl rfl rfl⟩
    · exact taken rfl (s.opened.checkStart_none (strandArg_ofNat k) run idle ok)
        (s.opened.onStrandArg_some (strandArg_ofNat k) _)
    · exact taken rfl (s.opened.checkMoving_none (strandArg_ofNat k) moving) (s.opened.onStrandArg_some (strandArg_ofNat k) _)
    · exact taken rfl (s.opened.checkMoving_none (strandArg_ofNat k) moving) (s.opened.onStrandArg_some (strandArg_ofNat k) _)
    · exact taken rfl (s.opened.checkRestart_none (channelArg_ofNat k) off)
        (s.opened.onChannelArg_some (channelArg_ofNat k) _)

end

-- ==== The memory path: aborts and the hold limit (R13, R14, R159, R164) ====
section
/-!
PROOFS. A transaction that the Evidence Engine makes, and an abort (R164): what each changes, as an equation. Then the aborts of one
event, which do not meet each other, and the release of a front write that touches no protected line (R13, R14, R159).
-/
namespace Sys2Proof.Machine

/-! ### A write that the Evidence Engine makes (R16, R161) -/

/-- The own traffic once the Evidence Engine has made a transaction at an event. -/
def Own.made (o : Own) (event : Nat) (t : OwnTxn) : Own :=
  if o.engine = [] ∧ (∀ x ∈ o.waiters, x.1 ≠ .evidence) ∧ o.queue.length + o.waiters.length < Config.ownPlaces then
    { o with queue := o.queue ++ [t] }
  else
    { o with
      engine := o.engine ++ [t]
      waiters := if ∀ x ∈ o.waiters, x.1 ≠ .evidence then o.waiters ++ [(.evidence, event)] else o.waiters }

theorem State.waits_iff (s : State) (w : Waiter) : s.waits w = true ↔ ∃ x ∈ s.own.waiters, x.1 = w := by
  simp [State.waits]

/-- A write made changes the own traffic and nothing else. -/
theorem State.engineMake_write (s : State) (t : OwnTxn) (write : t.tag.isRead = false) :
    s.engineMake t = { s with own := s.own.made s.eventNumber t } := by
  have waits : s.waits .evidence = true ↔ ¬∀ x ∈ s.own.waiters, x.1 ≠ .evidence := by
    rw [State.waits_iff]
    push Not
    exact Iff.rfl
  unfold Own.made
  by_cases joins : s.own.engine = [] ∧ (∀ x ∈ s.own.waiters, x.1 ≠ .evidence) ∧
      s.own.queue.length + s.own.waiters.length < Config.ownPlaces
  · rw [if_pos joins, State.engineMake_joins s t joins.1 (Bool.eq_false_iff.mpr fun h => waits.mp h joins.2.1)
      (decide_eq_true joins.2.2), State.readIssued_write s write]
  · have no : ¬(s.own.engine.isEmpty && !s.waits .evidence && s.placeFree) = true := by
      simp only [Bool.and_eq_true, List.isEmpty_iff, Bool.not_eq_true', State.placeFree, decide_eq_true_eq]
      rintro ⟨⟨empty, quiet⟩, room⟩
      refine joins ⟨empty, ?_, room⟩
      exact not_not.mp fun h => Bool.false_ne_true (quiet.symm.trans (waits.mpr h))
    unfold State.engineMake State.beginWait
    rw [if_neg joins, if_neg no]
    by_cases waiting : ∀ x ∈ s.own.waiters, x.1 ≠ .evidence
    · have none : ({ s with own := { s.own with engine := s.own.engine ++ [t] } } : State).waits .evidence = false :=
        Bool.eq_false_iff.mpr fun h => waits.mp h waiting
      rw [none, if_neg Bool.false_ne_true, if_pos waiting]
    · have some_ : ({ s with own := { s.own with engine := s.own.engine ++ [t] } } : State).waits .evidence = true :=
        waits.mpr waiting
      rw [some_, if_pos rfl, if_neg waiting]

/-! ### An abort (R164) -/

/-- A slot that is QUEUED or COPYING and not finishing (R152). -/
theorem Slot.live_iff (x : Slot) : x.live = true ↔ (x.state = .queued ∨ x.state = .copying) ∧ x.outcome = none := by
  unfold Slot.live
  cases x.state <;> simp

/-- The header of a slot with an outcome, as it is written to its tile. -/
def State.headerOf (s : State) (i : Fin 4) (o : Outcome) : OwnTxn :=
  { tag := .tileHeader i, addr := BitVec.ofNat 40 (s.tileBase (s.slot i).tile), count := 64, data := tileHeader (s.slot i) o }

/-- An abort of a live slot: what the Evidence Engine holds, and its header made (R164). -/
theorem State.abortSlot_live (s : State) (i : Fin 4) (o : Outcome) (h : (s.slot i).live = true) :
    s.abortSlot i o =
      { s with
        own := Own.made { s.own with engine := s.own.engine.filter fun t => !t.tag.readsFor i } s.eventNumber
          (s.headerOf i o)
        evidence := Evidence.countAbort
          { s.evidence with slots := vset s.evidence.slots i { s.slot i with outcome := some o } } o } := by
  unfold State.abortSlot State.makeHeader
  rw [if_pos h]
  dsimp only
  rw [State.engineMake_write _ _ rfl]
  rfl

theorem State.abortSlot_idle (s : State) (i : Fin 4) (o : Outcome) (h : (s.slot i).live = false) :
    s.abortSlot i o = s := if_neg (Bool.eq_false_iff.mp h)

/-- The count of an abort leaves the tiles. -/
theorem Evidence.countAbort_tiles (e : Evidence) (o : Outcome) : (e.countAbort o).tiles = e.tiles := by
  unfold Evidence.countAbort
  cases o <;> exact (apply_ite Evidence.tiles _ _ _).trans (ite_self _)

/-- What the aborts of an event leave alone. -/
structure State.AbortsTo (s t : State) : Prop where
  same : t = { s with own := t.own, evidence := t.evidence }
  tiles : t.evidence.tiles = s.evidence.tiles

theorem State.AbortsTo.refl (s : State) : s.AbortsTo s := ⟨rfl, rfl⟩

theorem State.AbortsTo.shadow {s t : State} (h : s.AbortsTo t) : t.shadow = s.shadow := by rw [h.same]

theorem State.AbortsTo.trans {a b c : State} (h : a.AbortsTo b) (g : b.AbortsTo c) : a.AbortsTo c := by
  refine ⟨?_, g.tiles.trans h.tiles⟩
  rw [g.same, h.same]

theorem State.AbortsTo.abortSlot (s : State) (i : Fin 4) (o : Outcome) : s.AbortsTo (s.abortSlot i o) := by
  by_cases live : (s.slot i).live = true
  · rw [State.abortSlot_live s i o live]
    exact ⟨rfl, Evidence.countAbort_tiles _ _⟩
  · rw [State.abortSlot_idle s i o (Bool.eq_false_iff.mpr live)]
    exact .refl s

/-- The slots after an abort: the outcome of that slot fixed where it was live, the others as they were. -/
theorem State.abortSlot_slot (s : State) (i j : Fin 4) (o : Outcome) : (s.abortSlot i o).slot j =
    if i = j ∧ (s.slot i).live = true then { s.slot i with outcome := some o } else s.slot j := by
  by_cases live : (s.slot i).live = true
  · rw [State.abortSlot_live s i o live]
    unfold State.slot
    dsimp only
    rw [Evidence.countAbort_slots, vget_vset]
    simp [show (vget s.evidence.slots i).live = true from live]
  · rw [State.abortSlot_idle s i o (Bool.eq_false_iff.mpr live), if_neg fun h => live h.2]

theorem State.abortSlot_slot_other (s : State) {i j : Fin 4} (o : Outcome) (h : i ≠ j) :
    (s.abortSlot i o).slot j = s.slot j := by
  rw [State.abortSlot_slot, if_neg fun g => h g.1]

/-- Aborts of different slots do not meet: the slots named are those that the test names from the start. -/
theorem State.abortWhere_eq (o : Outcome) (test : State → Fin 4 → Bool)
    (apart : ∀ (t : State) (i j : Fin 4), i ≠ j → test (t.abortSlot i o) j = test t j) (l : List (Fin 4)) (hl : l.Nodup)
    (s : State) : s.abortWhere o test l = (l.filter (test s)).foldl (fun u i => u.abortSlot i o) s := by
  induction l generalizing s with
  | nil => rfl
  | cons i rest ih =>
    obtain ⟨fresh, hrest⟩ := List.nodup_cons.mp hl
    rw [State.abortWhere]
    by_cases named : test s i = true
    · have same : rest.filter (test (s.abortSlot i o)) = rest.filter (test s) :=
        List.filter_congr fun j hj => apart s i j fun e => fresh (e ▸ hj)
      rw [if_pos named, ih hrest, same, List.filter_cons_of_pos named, List.foldl_cons]
    · rw [if_neg named, ih hrest, List.filter_cons_of_neg named]

/-- What a slot protects, and what a write meets, is told by that slot and the settings. -/
theorem State.slotMet_congr {s t : State} {j : Fin 4} (slot : t.slot j = s.slot j) (shadow : t.shadow = s.shadow)
    (w : Fin 16) (offset count : Nat) : t.slotMet j w offset count = s.slotMet j w offset count := by
  unfold State.slotMet State.slotProtects State.window
  rw [slot, shadow]

/-- A slot with an outcome protects no line. -/
theorem State.slotMet_finished {s : State} {j : Fin 4} (h : (s.slot j).outcome ≠ none) (w : Fin 16) (offset count : Nat) :
    s.slotMet j w offset count = false := by
  have dead : (s.slot j).live = false := Bool.eq_false_iff.mpr fun l => h ((Slot.live_iff _).mp l).2
  unfold State.slotMet State.slotProtects
  simp [dead]

/-- A slot that meets a write is live. -/
theorem State.slotMet_live {s : State} {j : Fin 4} {w : Fin 16} {offset count : Nat}
    (h : s.slotMet j w offset count = true) : (s.slot j).live = true := by
  obtain ⟨l, -, protects⟩ := List.any_eq_true.mp h
  simp only [State.slotProtects, Bool.and_eq_true] at protects
  exact protects.1.1.1.1

/-- The slots after the aborts of a list of live slots. -/
theorem State.foldl_abortSlot_slot (o : Outcome) (l : List (Fin 4)) (hl : l.Nodup) (s : State)
    (live : ∀ i ∈ l, (s.slot i).live = true) (j : Fin 4) :
    (l.foldl (fun u i => u.abortSlot i o) s).slot j =
      if j ∈ l then { s.slot j with outcome := some o } else s.slot j := by
  induction l generalizing s with
  | nil => rfl
  | cons i rest ih =>
    obtain ⟨fresh, hrest⟩ := List.nodup_cons.mp hl
    have others (k : Fin 4) (hk : k ∈ rest) : (s.abortSlot i o).slot k = s.slot k :=
      s.abortSlot_slot_other o fun e => fresh (e ▸ hk)
    rw [List.foldl_cons, ih hrest _ fun k hk => by rw [others k hk]; exact live k (List.mem_cons_of_mem _ hk)]
    by_cases inside : j ∈ rest
    · rw [if_pos inside, if_pos (List.mem_cons_of_mem _ inside), others j inside]
    · rw [if_neg inside, State.abortSlot_slot]
      by_cases own : i = j
      · subst own
        rw [if_pos ⟨rfl, live i List.mem_cons_self⟩, if_pos List.mem_cons_self]
      · rw [if_neg fun h => own h.1, if_neg fun h => (List.mem_cons.mp h).elim (own ∘ Eq.symm) inside]

theorem State.AbortsTo.foldl (o : Outcome) (l : List (Fin 4)) (s : State) :
    s.AbortsTo (l.foldl (fun u i => u.abortSlot i o) s) := by
  induction l generalizing s with
  | nil => exact .refl s
  | cons i rest ih => exact .trans (.abortSlot s i o) (ih _)

/-- The count of OVERRUN after an abort, where its top is not reached. -/
theorem Evidence.countAbort_overrun (e : Evidence) (low : e.overrun + 1 ≤ Config.counterTop) :
    (e.countAbort .overrun).overrun = if Config.countsAtAbort then e.overrun + 1 else e.overrun := by
  unfold Evidence.countAbort
  split
  · exact Nat.min_eq_left low
  · rfl

theorem State.foldl_abortSlot_overrun (l : List (Fin 4)) (hl : l.Nodup) (s : State)
    (live : ∀ i ∈ l, (s.slot i).live = true) (low : s.evidence.overrun + l.length ≤ Config.counterTop) :
    (l.foldl (fun u i => u.abortSlot i .overrun) s).evidence.overrun =
      if Config.countsAtAbort then s.evidence.overrun + l.length else s.evidence.overrun := by
  induction l generalizing s with
  | nil => exact (ite_self _).symm
  | cons i rest ih =>
    obtain ⟨fresh, hrest⟩ := List.nodup_cons.mp hl
    rw [List.length_cons] at low
    have counted : (s.abortSlot i .overrun).evidence.overrun =
        if Config.countsAtAbort then s.evidence.overrun + 1 else s.evidence.overrun := by
      rw [State.abortSlot_live s i _ (live i List.mem_cons_self)]
      exact Evidence.countAbort_overrun _ (show s.evidence.overrun + 1 ≤ Config.counterTop by omega)
    have others (k : Fin 4) (hk : k ∈ rest) : (s.abortSlot i .overrun).slot k = s.slot k :=
      s.abortSlot_slot_other _ fun e => fresh (e ▸ hk)
    rw [List.foldl_cons, ih hrest _ (fun k hk => by rw [others k hk]; exact live k (List.mem_cons_of_mem _ hk))
      (by rw [counted]; split <;> omega), counted, List.length_cons]
    cases Config.countsAtAbort
    · rfl
    · simp only [if_true]
      omega

/-! ### The release of a front write (R13) -/

/-- The write numbered q has been released: none of that number is held, its entry stands in the forwarding queue, and its records
are WAITING. -/
structure State.HasReleased (s : State) (q : Nat) : Prop where
  gone : ∀ x ∈ s.path.held, x.seq ≠ q
  queued : (q, 0) ∈ s.path.forwarding
  waiting : ∀ r ∈ s.path.table, r.seq = q → r.disposition = .waiting

theorem State.releaseWrite_path (s : State) (h : HeldWrite) :
    (s.releaseWrite h).path.held = s.path.held.filter (fun x => x.seq != h.seq) ∧
    (s.releaseWrite h).path.forwarding = s.path.forwarding ++ [(h.seq, 0)] ∧
    (s.releaseWrite h).path.table =
      s.path.table.map fun r => if r.seq = h.seq then { r with disposition := .waiting } else r := ⟨rfl, rfl, rfl⟩

theorem State.HasReleased.releaseWrite (s : State) (h : HeldWrite) : (s.releaseWrite h).HasReleased h.seq where
  gone x hx := bne_iff_ne.mp (List.mem_filter.mp hx).2
  queued := List.mem_append_right _ List.mem_cons_self
  waiting r hr e := by
    obtain ⟨x, -, rfl⟩ := List.mem_map.mp hr
    by_cases own : x.seq = h.seq
    · rw [if_pos own]
    · rw [if_neg own] at e
      exact absurd e own

theorem State.HasReleased.keep {s : State} {q : Nat} (i : s.HasReleased q) (h : HeldWrite) :
    (s.releaseWrite h).HasReleased q where
  gone x hx := i.gone x (List.mem_filter.mp hx).1
  queued := List.mem_append_left _ i.queued
  waiting r hr e := by
    obtain ⟨x, hx, rfl⟩ := List.mem_map.mp hr
    by_cases own : x.seq = h.seq
    · rw [if_pos own]
    · rw [if_neg own] at e ⊢
      exact i.waiting x hx e

/-- The path of a choice made is the path before it. -/
theorem State.HasReleased.choose {s : State} {q : Nat} (n : Nat) (i : s.HasReleased q) : (s.choose n).2.HasReleased q := by
  obtain ⟨c, e⟩ := (s.choose_spec n).1
  rw [e]
  exact ⟨i.gone, i.queued, i.waiting⟩

/-- One release of a step: a front write that touches no protected line, by a free choice. -/
theorem State.releaseFronts_succ (n : Nat) (s : State) :
    ((∀ h ∈ s.fronts, s.heldMeets h = true) ∧ State.releaseFronts (n + 1) s = s) ∨
    ∃ h ∈ s.fronts, s.heldMeets h = false ∧ ∃ c,
      State.releaseFronts (n + 1) s = State.releaseFronts n (({ s with choiceNumber := c } : State).releaseWrite h) := by
  rw [State.releaseFronts]
  split
  · next none =>
    refine .inl ⟨fun h hh => ?_, rfl⟩
    have := List.filter_eq_nil_iff.mp none h hh
    simpa using this
  · next x rest some_ =>
    obtain ⟨⟨c, same⟩, index⟩ := s.choose_spec (rest.length + 1)
    have bound : (s.choose (rest.length + 1)).1 < (x :: rest).length := index (Nat.succ_pos _)
    have chosen : (x :: rest).getD (s.choose (rest.length + 1)).1 x ∈ x :: rest := by
      rw [List.getD_eq_getElem _ x bound]
      exact List.getElem_mem bound
    rw [← some_] at chosen
    obtain ⟨front, free⟩ := List.mem_filter.mp chosen
    refine .inr ⟨_, front, by simpa using free, c, ?_⟩
    rw [← same, some_]

theorem State.HasReleased.releaseFronts {q : Nat} (n : Nat) (s : State) (i : s.HasReleased q) :
    (State.releaseFronts n s).HasReleased q := by
  induction n generalizing s with
  | zero => exact i
  | succ n ih =>
    obtain ⟨-, same⟩ | ⟨h, -, -, c, next⟩ := s.releaseFronts_succ n
    · rwa [same]
    · rw [next]
      exact ih _ (State.HasReleased.keep (s := { s with choiceNumber := c }) ⟨i.gone, i.queued, i.waiting⟩ h)

/-- A front write that touches no protected line is released by the step. -/
theorem State.releaseFronts_releases (n : Nat) (s : State) (hn : s.path.held.length ≤ n) (h : HeldWrite)
    (front : h ∈ s.fronts) (free : s.heldMeets h = false) : (State.releaseFronts n s).HasReleased h.seq := by
  induction n generalizing s with
  | zero =>
    obtain ⟨-, a, b, split, -⟩ := (mem_frontsFrom _ _ _).mp front
    rw [split] at hn
    simp at hn
  | succ n ih =>
    obtain ⟨none, -⟩ | ⟨y, hy, -, c, next⟩ := s.releaseFronts_succ n
    · exact absurd (none h front) (free ▸ Bool.false_ne_true)
    rw [next]
    by_cases own : y.seq = h.seq
    · exact own ▸ .releaseFronts n _ (.releaseWrite _ y)
    obtain ⟨-, a, b, split, first⟩ := (mem_frontsFrom _ _ _).mp front
    obtain ⟨-, a', b', split', -⟩ := (mem_frontsFrom _ _ _).mp hy
    have held : (({ s with choiceNumber := c } : State).releaseWrite y).path.held =
        s.path.held.filter fun x => x.seq != y.seq := rfl
    refine ih _ ?_ ?_ free
    · have less : (s.path.held.filter fun x => x.seq != y.seq).length < s.path.held.length := by
        refine List.length_filter_lt_length_iff_exists.mpr ⟨y, by rw [split']; simp, by simp⟩
      rw [held]
      omega
    · refine (mem_frontsFrom _ _ _).mpr ⟨List.not_mem_nil, a.filter (fun x => x.seq != y.seq),
        b.filter (fun x => x.seq != y.seq), ?_, fun x hx => first x (List.mem_filter.mp hx).1⟩
      have stays : (h.seq != y.seq) = true := bne_iff_ne.mpr (Ne.symm own)
      rw [held, split, List.filter_append, List.filter_cons_of_pos (by exact stays)]

/-- A release step changes the path and the count of choices alone. -/
theorem State.releaseStep_same (s : State) :
    ∃ p c, s.releaseStep = { s with path := p, choiceNumber := c } := by
  have fronts (n : Nat) (s : State) : ∃ p c, State.releaseFronts n s = { s with path := p, choiceNumber := c } := by
    induction n generalizing s with
    | zero => exact ⟨_, _, rfl⟩
    | succ n ih =>
      obtain ⟨-, same⟩ | ⟨h, -, -, c, next⟩ := s.releaseFronts_succ n
      · exact ⟨s.path, s.choiceNumber, same⟩
      · obtain ⟨p, d, e⟩ := ih (({ s with choiceNumber := c } : State).releaseWrite h)
        exact ⟨p, d, next.trans e⟩
  obtain ⟨p, c, e⟩ := fronts s.path.held.length s
  refine ⟨_, c, (congrArg State.startTimers e).trans rfl⟩

/-- A release step releases a front write that touches no protected line. -/
theorem State.releaseStep_releases (s : State) (h : HeldWrite) (front : h ∈ s.fronts) (free : s.heldMeets h = false) :
    s.releaseStep.HasReleased h.seq := by
  have released := State.releaseFronts_releases s.path.held.length s le_rfl h front free
  refine ⟨fun x hx => ?_, released.queued, released.waiting⟩
  obtain ⟨y, hy, rfl⟩ := List.mem_map.mp hx
  have same := released.gone y hy
  split
  · exact same
  · exact same

/-- A release step takes nothing that is presented. -/
theorem State.releaseStep_presented (s : State) :
    s.releaseStep.path.presentedReads = s.path.presentedReads ∧
      s.releaseStep.path.presentedWrites = s.path.presentedWrites := (State.Keeps.releaseStep s).presented

/-! ### The expiry of a hold timer (R14) -/

/-- The slots that an expired write meets. -/
def State.overrunBy (s : State) (h : HeldWrite) (i : Fin 4) : Bool :=
  match h.window with
  | none => false
  | some w => s.slotMet i w h.offset h.count

/-- The state with the slots that an expired write meets aborted, at the expiry. -/
def State.overrunAborted (s : State) (h : HeldWrite) (d : Nat) : State :=
  ((List.finRange 4).filter (s.overrunBy h)).foldl (fun u i => u.abortSlot i .overrun) (s.atTime d)

theorem State.abortOverrun_eq (s : State) (w : Fin 16) (offset count : Nat) : s.abortOverrun w offset count =
    ((List.finRange 4).filter fun i => s.slotMet i w offset count).foldl (fun u i => u.abortSlot i .overrun) s :=
  State.abortWhere_eq _ _ (fun t i _ other => State.slotMet_congr (t.abortSlot_slot_other _ other)
    (State.AbortsTo.abortSlot t i .overrun).shadow _ _ _) _ (List.nodup_finRange 4) s

theorem State.holdLimit_expires (s : State) {id : Id} {h : HeldWrite} {d : Nat}
    (front : (s.fronts.find? fun x => x.id == id) = some h) (due : h.expiry = some d) :
    s.holdLimit id = (s.overrunAborted h d).releaseStep.takePresented := by
  have window : (match h.window with
      | none => s.atTime d
      | some w => (s.atTime d).abortOverrun w h.offset h.count) = s.overrunAborted h d := by
    unfold State.overrunAborted State.overrunBy
    cases h.window with
    | none => simp
    | some w => exact State.abortOverrun_eq _ _ _ _
  unfold State.holdLimit
  rw [front]
  dsimp only
  rw [due]
  exact congrArg (fun u => (State.releaseStep u).takePresented) window

theorem State.holdLimit_none (s : State) {id : Id}
    (none : ∀ h, (s.fronts.find? fun x => x.id == id) = some h → h.expiry = none) : s.holdLimit id = s := by
  unfold State.holdLimit
  split
  · rfl
  · next h front => rw [none h front]

section
variable (s : State) (h : HeldWrite) (d : Nat)

/-- The slots that the expired write meets are live. -/
theorem State.overrunBy_live {i : Fin 4} (hit : s.overrunBy h i = true) : (s.slot i).live = true := by
  unfold State.overrunBy at hit
  split at hit
  · cases hit
  · exact State.slotMet_live hit

/-- The slots after the aborts of the expiry. -/
theorem State.overrunAborted_slot (i : Fin 4) : (s.overrunAborted h d).slot i =
    if s.overrunBy h i = true then { s.slot i with outcome := some .overrun } else s.slot i := by
  have slots := State.foldl_abortSlot_slot .overrun ((List.finRange 4).filter (s.overrunBy h))
    ((List.nodup_finRange 4).filter _) (s.atTime d) (fun i hi => s.overrunBy_live h (List.mem_filter.mp hi).2) i
  have mem : i ∈ (List.finRange 4).filter (s.overrunBy h) ↔ s.overrunBy h i = true := by simp
  simp only [mem] at slots
  exact slots

theorem State.overrunAborted_aborts : (s.atTime d).AbortsTo (s.overrunAborted h d) := .foldl _ _ _

/-- After the aborts the expired write touches no protected line. -/
theorem State.overrunAborted_frees : (s.overrunAborted h d).heldMeets h = false := by
  unfold State.heldMeets
  split
  · rfl
  next w window =>
  refine List.any_eq_false.mpr fun i _ => ?_
  have slot := s.overrunAborted_slot h d i
  have shadow : (s.overrunAborted h d).shadow = s.shadow :=
    (s.overrunAborted_aborts h d).shadow
  by_cases hit : s.overrunBy h i = true
  · rw [if_pos hit] at slot
    rw [State.slotMet_finished (by rw [slot]; exact Option.some_ne_none _)]
    exact Bool.false_ne_true
  · rw [if_neg hit] at slot
    rw [State.slotMet_congr slot shadow]
    simpa [State.overrunBy, window] using hit

end

end Sys2Proof.Machine

open Sys2Proof Sys2Proof.Machine

/-! ### The statement -/

/-- Settles O20: the expiry aborts what the front write meets and releases it; the parts have their equations above. -/
theorem holdLimitExpiryReleasesTheFront : Obligations.HoldLimitExpiryReleasesTheFront := by
  refine ⟨fun s id hl none => .of_event rfl hl (s.opened.holdLimit_none none), ?expiry, ?abort, ?reads,
    fun s nodup => State.releaseStep_released s nodup, fun l h => ?fronts⟩
  case reads =>
    intro i g
    cases g <;> simp [OwnTag.readsFor]
  case fronts =>
    rw [mem_frontsFrom]
    exact and_iff_right List.not_mem_nil
  case abort =>
    intro s i o kind z live e
    have isLive : live ↔ (s.slot i).live = true := (Slot.live_iff _).symm
    refine ⟨fun no => s.abortSlot_idle i o (Bool.eq_false_iff.mpr (no ∘ isLive.mpr)), fun yes => ?_⟩
    rw [s.abortSlot_live i o (isLive.mp yes), State.engineMake_write _ _ rfl]
    obtain rfl | rfl := kind
    · unfold Evidence.countAbort
      cases Config.countsAtAbort <;> rfl
    · unfold Evidence.countAbort
      cases Config.countsAtAbort <;> rfl
  case expiry =>
    intro s id h d hl front due hit met aborted
    have state : aborted = s.opened.overrunAborted h d := rfl
    have event : s.opened.holdLimit id = aborted.releaseStep.takePresented := s.opened.holdLimit_expires front due
    have frees : aborted.heldMeets h = false := s.opened.overrunAborted_frees h d
    refine ⟨.of_event rfl hl event, frees, fun quiet => ⟨_, rfl, ?_⟩⟩
    have aborts : (s.opened.atTime d).AbortsTo aborted := s.opened.overrunAborted_aborts h d
    have slot (i : Fin 4) : aborted.slot i = if hit i = true then { s.slot i with outcome := some .overrun } else s.slot i :=
      s.opened.overrunAborted_slot h d i
    have inFront : h ∈ aborted.fronts := by
      have same : aborted.fronts = s.fronts := by
        unfold State.fronts
        rw [aborts.same]
        rfl
      exact same ▸ List.mem_of_find?_eq_some front
    have released := aborted.releaseStep_releases h inFront frees
    obtain ⟨p, c, step⟩ := aborted.releaseStep_same
    have taken : aborted.releaseStep.takePresented = aborted.releaseStep := by
      obtain ⟨reads, writes⟩ := aborted.releaseStep_presented
      refine State.takePresented_none _ (reads.trans ?_) (writes.trans ?_)
      · rw [aborts.same]
        exact quiet.1
      · rw [aborts.same]
        exact quiet.2
    have settles := s.event_settles (fun t => t.holdLimit id) hl
    rw [event, taken] at settles
    obtain ⟨same, -, -⟩ := settles
    generalize s.event (fun t => t.holdLimit id) = t at same ⊢
    have keeps : t.path = aborted.releaseStep.path ∧ t.evidence = aborted.evidence := by
      rw [same, step]
      exact ⟨rfl, rfl⟩
    obtain ⟨path, evidence⟩ := keeps
    have slots (i : Fin 4) : t.slot i = aborted.slot i := by
      unfold State.slot
      rw [evidence]
    have rest : t.timeBase = max s.timeBase d ∧ t.shadow = s.shadow ∧ t.strands = s.strands ∧ t.faces = s.faces ∧
        t.tracks = s.tracks ∧ t.lineQueue = s.lineQueue ∧ t.assemblers = s.assemblers ∧ t.part = s.part ∧
        t.ring = s.ring ∧ t.causes.pending = s.causes.pending := by
      rw [same, step, aborts.same]
      exact ⟨rfl, rfl, rfl, rfl, rfl, rfl, rfl, rfl, rfl, rfl⟩
    obtain ⟨time, rest⟩ := rest
    refine ⟨time, fun i yes => ?_, fun i no => ?_, fun i => ?_, fun low => ?_, ?_, ?_, ?_, rest⟩
    · rw [slots, slot, if_pos yes]
      exact ⟨rfl, rfl, rfl⟩
    · rw [slots, slot, if_neg (Bool.eq_false_iff.mp no)]
    · unfold State.tile
      rw [evidence, aborts.tiles]
      rfl
    · rw [evidence]
      exact State.foldl_abortSlot_overrun _ ((List.nodup_finRange 4).filter _) (s.opened.atTime d)
        (fun i hi => s.opened.overrunBy_live h (List.mem_filter.mp hi).2) low
    · rw [path]
      exact released.gone
    · rw [path]
      exact released.queued
    · rw [path]
      exact released.waiting

end

-- ==== Line capture: the Line Assembler (R22, R23, R29, R31 to R34) ====
section
/-!
PROOFS. The pieces of a captured write, by the lines whose strides it touches (R29); then one equation for each thing that the
assembler does with a piece (R32 to R34), and the pixel values of the face's cells (R22, R23).
-/
namespace Sys2Proof.Machine

/-! ### The pieces of a write (R29) -/

section
variable {stride offset count : Nat} (wide : 0 < stride)
include wide

omit wide in
/-- The lines whose stride a range touches rise. -/
theorem linesTouched_rising : (linesTouched stride offset count).Pairwise (· < ·) := by
  unfold linesTouched
  split
  · exact .nil
  · rw [List.pairwise_map]
    exact List.pairwise_lt_range.imp fun h => Nat.add_lt_add_left h _

/-- They are the lines from that of the first byte to that of the last. -/
theorem mem_linesTouched {l : Nat} : l ∈ linesTouched stride offset count ↔
    0 < count ∧ offset / stride ≤ l ∧ l ≤ (offset + count - 1) / stride := by
  unfold linesTouched
  by_cases none : count = 0
  · simp [none]
  have some_ : ¬(decide (count = 0) || decide (stride = 0)) = true := by
    simp only [Bool.or_eq_true, decide_eq_true_eq]
    omega
  have order : offset / stride ≤ (offset + count - 1) / stride := Nat.div_le_div_right (by omega)
  rw [if_neg some_]
  simp only [List.mem_map, List.mem_range]
  constructor
  · rintro ⟨i, hi, rfl⟩
    omega
  · rintro ⟨-, low, high⟩
    exact ⟨l - offset / stride, by omega, by omega⟩

end

/-- The part of a write that falls in the pixel bytes of one line, whose stride begins at an offset. -/
def pieceAt (x : Window) (offset : Nat) (data : List Byte) (strobes : List Bool) (l : Nat) : LinePiece :=
  let lo := max offset (l * x.stride)
  let hi := min (offset + data.length) (l * x.stride + x.lineBytes)
  { line := l, start := lo - l * x.stride, data := (data.drop (lo - offset)).take (hi - lo)
    strobes := (strobes.drop (lo - offset)).take (hi - lo) }

section
variable {x : Window} {offset : Nat} {data : List Byte} {strobes : List Bool}

/-- A piece is the part of a line that the write touches in its pixel bytes, of a line in the ring. -/
theorem mem_linePieces {p : LinePiece} : p ∈ linePieces x offset data strobes ↔
    ∃ l ∈ linesTouched x.stride offset data.length, l < x.ringLines ∧
      max offset (l * x.stride) < min (offset + data.length) (l * x.stride + x.lineBytes) ∧
      pieceAt x offset data strobes l = p := by
  unfold linePieces
  rw [List.mem_filterMap]
  refine exists_congr fun l => and_congr_right fun _ => ?_
  by_cases inside : l < x.ringLines ∧
      max offset (l * x.stride) < min (offset + data.length) (l * x.stride + x.lineBytes)
  · dsimp only
    rw [if_pos (by simpa using inside)]
    simp [inside.1, inside.2, pieceAt]
  · dsimp only
    rw [if_neg (by simpa using inside)]
    exact ⟨fun h => (nomatch h), fun ⟨ring, some_, _⟩ => absurd ⟨ring, some_⟩ inside⟩

/-- The pieces come in ascending order of line (R29). -/
theorem linePieces_rising :
    (linePieces x offset data strobes).Pairwise fun p q => p.line < q.line := by
  have line {l : Nat} {p : LinePiece} (h : (let lo := max offset (l * x.stride)
      let hi := min (offset + data.length) (l * x.stride + x.lineBytes)
      if l < x.ringLines && lo < hi then
        some ({ line := l, start := lo - l * x.stride, data := (data.drop (lo - offset)).take (hi - lo)
                strobes := (strobes.drop (lo - offset)).take (hi - lo) } : LinePiece)
      else none) = some p) : p.line = l := by
    dsimp only at h
    split at h
    · exact congrArg LinePiece.line (Option.some.inj h).symm
    · cases h
  refine List.Pairwise.filterMap _ (fun a b lt p hp q hq => ?_) linesTouched_rising
  rw [line hp, line hq]
  exact lt

/-- A piece's bytes and strobes are those of the write at its place. -/
theorem pieceAt_bytes (len : strobes.length = data.length) {l : Nat}
    (some_ : max offset (l * x.stride) < min (offset + data.length) (l * x.stride + x.lineBytes)) :
    let p := pieceAt x offset data strobes l
    p.data.length = min (offset + data.length) (l * x.stride + x.lineBytes) - max offset (l * x.stride) ∧
      p.strobes.length = p.data.length ∧
      ∀ i, i < p.data.length →
        data[l * x.stride + p.start + i - offset]? = p.data[i]? ∧
        strobes[l * x.stride + p.start + i - offset]? = p.strobes[i]? := by
  intro p
  have lengths : p.data.length = min (offset + data.length) (l * x.stride + x.lineBytes) - max offset (l * x.stride) := by
    simp only [p, pieceAt, List.length_take, List.length_drop]
    omega
  refine ⟨lengths, ?_, fun i hi => ?_⟩
  · simp only [p, pieceAt, List.length_take, List.length_drop, len]
  · have place : l * x.stride + p.start + i - offset = max offset (l * x.stride) - offset + i := by
      simp only [p, pieceAt]
      omega
    have inside : i < min (offset + data.length) (l * x.stride + x.lineBytes) - max offset (l * x.stride) := lengths ▸ hi
    rw [place]
    simp only [p, pieceAt, List.getElem?_take, if_pos inside, List.getElem?_drop, and_self]

/-- Each byte of the write in a line's pixel bytes lies in the piece of that line (R29). -/
theorem linePieces_cover (wide : 0 < x.stride) (len : strobes.length = data.length) {j : Nat} (hj : j < data.length)
    (ring : (offset + j) / x.stride < x.ringLines) (pixel : (offset + j) % x.stride < x.lineBytes) :
    ∃ p ∈ linePieces x offset data strobes, p.line = (offset + j) / x.stride ∧ p.start ≤ (offset + j) % x.stride ∧
      (offset + j) % x.stride < p.start + p.data.length := by
  have place : (offset + j) / x.stride * x.stride + (offset + j) % x.stride = offset + j := Nat.div_add_mod' _ _
  have touched : (offset + j) / x.stride ∈ linesTouched x.stride offset data.length :=
    (mem_linesTouched wide).mpr ⟨by omega, Nat.div_le_div_right (by omega), Nat.div_le_div_right (by omega)⟩
  generalize (offset + j) / x.stride = l at *
  generalize (offset + j) % x.stride = r at *
  have some_ : max offset (l * x.stride) < min (offset + data.length) (l * x.stride + x.lineBytes) := by omega
  obtain ⟨lengths, -, -⟩ := pieceAt_bytes (strobes := strobes) len some_
  refine ⟨_, mem_linePieces.mpr ⟨l, touched, ring, some_, rfl⟩, rfl, ?_, ?_⟩
  · simp only [pieceAt]
    omega
  · rw [lengths]
    simp only [pieceAt]
    omega

end

/-! ### What the assembler does with a piece (R32 to R34) -/

/-- The pieces are handled one after another. -/
theorem State.handlePieces_eq (w : Fin 16) (x : Window) (l : List LinePiece) (s : State) :
    State.handlePieces w x l s = l.foldl (fun t p => t.handlePiece w x p) s := by
  induction l generalizing s with
  | nil => rfl
  | cons p rest ih => exact ih _

section
variable (s : State) (w : Fin 16) (x : Window) (p : LinePiece)

/-- A piece goes on with the line being filled. -/
def LinePiece.goesOn (p : LinePiece) (a : Assembler) : Prop :=
  p.line = a.line ∧ p.start = a.carry.length ∧ ∀ b ∈ p.strobes, b = true

theorem LinePiece.strobes_iff (p : LinePiece) : p.strobes.all id = true ↔ ∀ b ∈ p.strobes, b = true := by
  simp [List.all_eq_true]

theorem State.handlePiece_goesOn (filling : (s.assembler w).filling = true) (on : p.goesOn (s.assembler w)) :
    s.handlePiece w x p = s.appendPiece w x p := by
  obtain ⟨line, start, strobes⟩ := on
  unfold State.handlePiece
  dsimp only
  rw [if_pos filling, if_pos ⟨line, start, p.strobes_iff.mpr strobes⟩]

theorem State.handlePiece_tears (filling : (s.assembler w).filling = true) (no : ¬p.goesOn (s.assembler w)) :
    s.handlePiece w x p = (s.tearLine w x.channel).pieceInIdle w x p := by
  unfold State.handlePiece
  dsimp only
  rw [if_pos filling, if_neg fun h => no ⟨h.1, h.2.1, p.strobes_iff.mp h.2.2⟩]

theorem State.handlePiece_idle (idle : (s.assembler w).filling = false) :
    s.handlePiece w x p = s.pieceInIdle w x p := if_neg (Bool.eq_false_iff.mp idle)

theorem State.appendPiece_short (short : ((s.assembler w).carry ++ p.data).length < x.lineBytes) :
    s.appendPiece w x p =
      { s with
        assemblers := vset s.assemblers w { s.assembler w with carry := (s.assembler w).carry ++ p.data } } := if_pos short

theorem State.appendPiece_full (full : x.lineBytes ≤ ((s.assembler w).carry ++ p.data).length) :
    s.appendPiece w x p = s.completeLine w x ((s.assembler w).carry ++ p.data) := if_neg (Nat.not_lt.mpr full)

/-- The state in which a piece at offset 0 has opened its line, before its bytes are taken (R32). -/
def State.lineOpened (s : State) (w : Fin 16) (x : Window) (p : LinePiece) : State :=
  let a := s.assembler w
  let k := x.channel
  let c := (s.face k).capture
  let gap := a.lastCompleted.any fun l => p.line != (l + 1) % x.ringLines
  (if gap then (s.setCapture k { c with sequenceGaps := bump c.sequenceGaps }).headError k else s).setAssembler w
    { a with filling := true, line := p.line, carry := [], stamp := (s.unit (strandOf k)).travel, gap := gap }

theorem State.pieceInIdle_elsewhere (h : p.start ≠ 0) : s.pieceInIdle w x p = s := if_pos h

theorem State.pieceInIdle_opens (h : p.start = 0) : s.pieceInIdle w x p =
    if ∀ b ∈ p.strobes, b = true then (s.lineOpened w x p).handlePiece w x p
    else (s.lineOpened w x p).tearLine w x.channel := by
  have opened : (s.lineOpened w x p).assembler w = { s.assembler w with
      filling := true, line := p.line, carry := [], stamp := (s.unit (strandOf x.channel)).travel,
      gap := (s.assembler w).lastCompleted.any fun l => p.line != (l + 1) % x.ringLines } := vget_vset_same _ _ _
  unfold State.pieceInIdle
  rw [if_neg (not_not.mpr h)]
  by_cases set : ∀ b ∈ p.strobes, b = true
  · rw [if_pos set, State.handlePiece_goesOn _ _ _ _ (by rw [opened]) (by rw [opened]; exact ⟨rfl, h, set⟩)]
    exact if_pos (p.strobes_iff.mpr set)
  · rw [if_neg set]
    exact if_neg (set ∘ p.strobes_iff.mp)

end

/-! ### Pixels (R22, R23) -/

/-- P8 drops no byte. -/
theorem cellPixels_whole (bytes : List Byte) : cellPixels 0 bytes = bytes := by
  unfold cellPixels
  simp

end Sys2Proof.Machine

open Sys2Proof Sys2Proof.Machine

/-! ### The statement -/

/-- Settles O13: the pieces by the lines touched, and each case of a piece by its equation above. -/
theorem linePiecesMakeLines : Obligations.LinePiecesMakeLines := by
  refine ⟨?pieces, fun s w offset data strobes => State.handlePieces_eq w _ _ s, ?assembler⟩
  case pieces =>
    intro x offset data strobes wide short len l
    refine ⟨linePieces_rising, fun p hp => ?_, fun j hj ring pixel => linePieces_cover wide len hj ring pixel⟩
    obtain ⟨n, -, ring, some_, rfl⟩ := mem_linePieces.mp hp
    obtain ⟨lengths, strobes_, bytes⟩ := pieceAt_bytes (strobes := strobes) len some_
    have start : (pieceAt x offset data strobes n).start = max offset (n * x.stride) - n * x.stride := rfl
    have line : (pieceAt x offset data strobes n).line = n := rfl
    refine ⟨List.ne_nil_of_length_pos (by omega), strobes_, ring, by omega, ?_, bytes⟩
    rw [line, start]
    omega
  case assembler =>
    intro s w x p a k y idle torn goesOn
    refine ⟨fun filling on short => ?_, fun filling on full => ?_, fun filling no => s.handlePiece_tears w x p filling no,
      s.handlePiece_idle w x p, s.pieceInIdle_elsewhere w x p, fun zero => ?_, fun line => rfl, cellPixels_whole,
      fun _ _ _ _ _ _ _ _ _ _ => by simp [cellPixels], fun _ _ _ _ _ _ _ _ _ _ _ _ => by simp [cellPixels]⟩
    · rw [s.handlePiece_goesOn w x p filling on, s.appendPiece_short w x p short]
    · rw [s.handlePiece_goesOn w x p filling on, s.appendPiece_full w x p full]
      rfl
    · intro gap counted g o
      have opened : s.lineOpened w x p = o := by
        have same : (a.lastCompleted.any fun l => p.line != (l + 1) % x.ringLines) = gap := by
          simp only [gap]
          cases a.lastCompleted <;> rfl
        unfold State.lineOpened
        dsimp only
        rw [same]
        rfl
      have idle_ := s.pieceInIdle_opens w x p zero
      rw [opened] at idle_
      refine ⟨fun set => idle_.trans (if_pos set), fun ⟨b, mem, clear⟩ => idle_.trans (if_neg fun set => ?_)⟩
      exact Bool.false_ne_true (clear.symm.trans (set b mem))

end

-- ==== Line capture: Head Health (R37 to R43, R98) ====
section
/-!
PROOFS. The events of a head, by its state (R37, R39, R40, R42, R43), and the interruption of a face (R98).
-/
namespace Sys2Proof.Machine

/-! ### Marks that stay -/

/-- A raised cause keeps every block dirty that was. -/
theorem State.dirty_raise (s : State) (c : Cause) (b : Fin 22) (h : (s.mark b).dirty = true) :
    ((s.raise c).mark b).dirty = true := by
  unfold State.raise
  split
  · exact h
  · exact State.dirty_markDirty _ 0 b (.inl h)

theorem State.dirty_raiseIf (s : State) (f : Bool) (c : Cause) (b : Fin 22) (h : (s.mark b).dirty = true) :
    ((s.raiseIf f c).mark b).dirty = true := by
  unfold State.raiseIf
  split
  · exact s.dirty_raise c b h
  · exact h

/-- The block marked by name is dirty. -/
theorem State.dirty_markFace (s : State) (k : Fin 16) : ((s.markFace k).mark (faceBlock k)).dirty = true :=
  State.dirty_markDirty s _ _ (.inr rfl)

/-! ### A change of the head (R39) -/

section
variable (s : State) (k : Fin 16)

theorem State.changeHead_settles (h : Head) : (s.setHead k h).Settles (s.changeHead k h) := by
  unfold State.changeHead
  split
  · exact .refl _
  · exact .markDirty _ _

theorem State.changeHead_new {h : Head} (new : h ≠ (s.face k).head) :
    s.changeHead k h = (s.setHead k h).markFace k := if_neg new

theorem State.changeHead_dirty {h : Head} (new : h ≠ (s.face k).head) :
    ((s.changeHead k h).mark (faceBlock k)).dirty = true := by
  rw [s.changeHead_new k new]
  exact State.dirty_markFace _ _

theorem State.changeHead_face (h : Head) (j : Fin 16) :
    (s.changeHead k h).face j = if k = j then { s.face k with head := h } else s.face j := by
  obtain ⟨m, e⟩ : ∃ m, s.changeHead k h = { s.setHead k h with marks := m } := by
    unfold State.changeHead
    split
    · exact ⟨_, rfl⟩
    · exact ⟨_, rfl⟩
  rw [e]
  exact vget_vset _ _ _ _

/-- A new head and the model resumed under it, written at once. -/
theorem State.setHead_resume (h : Head) :
    (s.setHead k h).setModel k (((s.setHead k h).face k).model.resume false) =
      { s with faces := vset s.faces k { s.face k with head := h, model := (s.face k).model.resume false } } := by
  have face : (s.setHead k h).face k = { s.face k with head := h } := vget_vset_same _ _ _
  rw [face]
  unfold State.setModel State.setHead State.setFace
  have again : State.face { s with faces := vset s.faces k { s.face k with head := h } } k = { s.face k with head := h } :=
    face
  rw [again, vset_vset]

/-- A change of the head with a cause raised where a condition holds. -/
theorem State.Settles.changeHead_raiseIf (h : Head) (f : Bool) (c : Cause) :
    (if f then (s.setHead k h).withCause c else s.setHead k h).Settles ((s.changeHead k h).raiseIf f c) := by
  have raised := State.Settles.raiseIf (s.changeHead k h) f c
  refine .trans ?_ raised
  obtain ⟨m, e⟩ : ∃ m, s.changeHead k h = { s.setHead k h with marks := m } := by
    unfold State.changeHead
    split
    · exact ⟨_, rfl⟩
    · exact ⟨_, rfl⟩
  rw [e]
  cases f
  · exact .ofMarks _ m
  · exact .ofMarks ((s.setHead k h).withCause c) m

end

/-! ### A head's rows (R37) -/

section
variable (h : Head)

/-- A counter below OFF after an error event. -/
theorem Head.plus8_below (low : h.errors + 8 < 256) :
    h.plus8 = { h with
        errors := min (h.errors + 8) 256
        state := if 128 ≤ min (h.errors + 8) 256 then .passive else .active
        warning := h.warning || decide (h.errors < 96 ∧ 96 ≤ min (h.errors + 8) 256) } ∧
      (h.plus8Raises = true ↔ (h.errors < 96 ∧ 96 ≤ min (h.errors + 8) 256) ∨
        (h.state = .active ∧ 128 ≤ min (h.errors + 8) 256)) := by
  have notFull : ¬256 ≤ min (h.errors + 8) 256 := by omega
  have notOff : (min (h.errors + 8) 256 == 256) = false := beq_eq_false_iff_ne.mpr (by omega)
  unfold Head.plus8 Head.plus8Raises headStateOf
  simp only [if_neg notFull, notOff, Bool.or_false]
  constructor
  · simp
  · split
    · next high => simp [high]
    · next high => simp [high]

/-- A counter that reaches OFF. -/
theorem Head.plus8_off (high : 256 ≤ h.errors + 8) :
    h.plus8 = { h with errors := 256, state := .off, warning := true } ∧ h.plus8Raises = true := by
  have full : min (h.errors + 8) 256 = 256 := by omega
  unfold Head.plus8 Head.plus8Raises headStateOf
  simp [full]

/-- A good-line event below the top of the counter. -/
theorem Head.minus1_eq (high : h.errors ≤ 256) :
    h.minus1 = { h with
      errors := h.errors - 1, state := if 129 ≤ h.errors then .passive else .active
      warning := h.warning && decide (2 ≤ h.errors) } := by
  have notOff : ¬256 ≤ h.errors - 1 := by omega
  have passive : 128 ≤ h.errors - 1 ↔ 129 ≤ h.errors := by omega
  have warned : (h.errors - 1 != 0) = decide (2 ≤ h.errors) := by
    rw [Bool.eq_iff_iff, bne_iff_ne, decide_eq_true_eq]
    omega
  unfold Head.minus1 headStateOf
  simp only [if_neg notOff, passive, warned]

end

/-! ### An event of a head by its state -/

section
variable {s : State} {k : Fin 16}

theorem State.headError_deaf (h : (s.face k).head.state = .off ∨ (s.face k).head.state = .disabled) :
    s.headError k = s := by
  obtain h | h := h <;> simp only [State.headError, h]

theorem State.headError_recovering (h : (s.face k).head.state = .recovering) :
    s.headError k = (s.changeHead k (s.face k).head.backOff).raise .head := by
  simp only [State.headError, h]

theorem State.headError_counts (h : (s.face k).head.state = .active ∨ (s.face k).head.state = .passive) :
    s.headError k =
      let s1 := (s.changeHead k (s.face k).head.plus8).raiseIf (s.face k).head.plus8Raises .head
      if (s.face k).head.plus8.state = .off then s1.headEntersOff k else s1 := by
  obtain h | h := h <;> simp only [State.headError, h]

theorem State.headGood_deaf (h : (s.face k).head.state = .off ∨ (s.face k).head.state = .disabled) :
    s.headGood k = s := by
  obtain h | h := h <;> simp only [State.headGood, h]

theorem State.headGood_counts (h : (s.face k).head.state = .active ∨ (s.face k).head.state = .passive) :
    s.headGood k = s.changeHead k (s.face k).head.minus1 := by
  obtain h | h := h <;> simp only [State.headGood, h]

theorem State.headGood_runs (h : (s.face k).head.state = .recovering) (more : (s.face k).head.goodRun ≠ 63) :
    s.headGood k = s.changeHead k { (s.face k).head with goodRun := (s.face k).head.goodRun + 1 } := by
  have short : ¬(s.face k).head.goodRun + 1 = Config.goodRunLines := fun e => more (Nat.succ.inj e)
  simp only [State.headGood, h, if_neg short]

theorem State.headGood_recovers (h : (s.face k).head.state = .recovering) (last : (s.face k).head.goodRun = 63) :
    s.headGood k =
      let s1 := s.changeHead k { (s.face k).head with state := .active, errors := 0, goodRun := 64 }
      s1.setModel k ((s1.face k).model.resume false) := by
  simp only [State.headGood, h, last]
  rfl

end

/-- A face uncovered is no longer among its strand's covered faces (R63). -/
theorem State.uncoverFace_covered (s : State) (k : Fin 16) :
    ((s.uncoverFace k).unit (strandOf k)).covered.getLsbD (faceIn k).val = false := by
  have bit (c : BitVec 4) (f : Fin 4) : (c &&& ~~~faceMask f).getLsbD f.val = false := by
    have one : (faceMask f).getLsbD f.val = true := by
      revert f
      decide
    rw [BitVec.getLsbD_and, BitVec.getLsbD_not, one]
    simp
  have unit : (s.uncoverFace k).unit (strandOf k) = (s.unit (strandOf k)).uncover (faceIn k) := by
    unfold State.uncoverFace State.changeUnit
    split
    · rw [State.unit_setUnit, if_pos rfl]
    · exact (State.unit_setUnit _ _ _ _).trans (if_pos rfl)
  have covered (u : StrandUnit) (f : Fin 4) : (u.uncover f).covered = u.covered &&& ~~~faceMask f := by
    unfold StrandUnit.uncover
    dsimp only
    split
    · rfl
    · split <;> rfl
  rw [unit, covered]
  exact bit _ _

/-- Tracks are closed one after another. -/
theorem State.closeEntries_eq (interrupted : Bool) (l : List (Fin 64 × Track)) (s : State) :
    State.closeEntries interrupted l s = l.foldl (fun u x => u.closeEntry x.1 false interrupted) s := by
  induction l generalizing s with
  | nil => rfl
  | cons x rest ih => exact ih _

/-- The interruption of a face: its tracks close, then every result queued is stale (R98). -/
theorem State.interruptFace_eq (s : State) (k : Fin 16) :
    let c := (s.openWhere fun t => t.face == k).foldl (fun u x => u.closeEntry x.1 false true) s
    s.interruptFace k = { c with faces := vset c.faces k { c.face k with staleCount := (c.face k).queuedCount } } := by
  intro c
  unfold State.interruptFace
  rw [State.closeEntries_eq]
  rfl

end Sys2Proof.Machine

open Sys2Proof Sys2Proof.Machine

/-! ### The statement -/

/-- Settles O21: each row has its equation above. -/
theorem headFollowsTheCounter : Obligations.HeadFollowsTheCounter := by
  refine ⟨fun s k => ?_, State.interruptFace_eq⟩
  intro h e
  refine ⟨⟨State.headError_deaf, fun recovering => ?back, fun counts low => ?error, fun counts high => ?off⟩,
    State.headGood_deaf, fun counts high => ?good, fun recovering => ?run⟩
  case back =>
    rw [State.headError_recovering recovering]
    have new : h.backOff ≠ h := fun same => by
      have off : h.backOff.state = .off := rfl
      rw [same] at off
      exact HeadState.noConfusion (off.symm.trans recovering)
    refine ⟨.trans ?_ (.raise _ _), State.dirty_raise _ _ _ (s.changeHead_dirty k new)⟩
    rw [s.changeHead_new k new]
    exact .ofMarks ((s.setHead k h.backOff).withCause .head) _
  case error =>
    obtain ⟨plus, raises⟩ := h.plus8_below low
    have stays : ¬h.plus8.state = .off := by
      rw [plus]
      dsimp only
      split <;> exact HeadState.noConfusion
    have new : h.plus8 ≠ h := fun same => by
      have count := congrArg Head.errors (same.symm.trans plus)
      dsimp only at count
      omega
    have eq : s.headError k = (s.changeHead k h.plus8).raiseIf h.plus8Raises .head :=
      (State.headError_counts counts).trans (if_neg stays)
    rw [eq]
    refine ⟨?_, State.dirty_raiseIf _ _ _ _ (s.changeHead_dirty k new)⟩
    have settles := State.Settles.changeHead_raiseIf s k h.plus8 h.plus8Raises .head
    simp only [raises] at settles
    rw [plus] at settles ⊢
    exact settles
  case off =>
    obtain ⟨plus, raises⟩ := h.plus8_off high
    have new : h.plus8 ≠ h := fun same => by
      have off : h.state = .off := congrArg Head.state (same.symm.trans plus)
      exact counts.elim (fun c => HeadState.noConfusion (off.symm.trans c)) fun c => HeadState.noConfusion (off.symm.trans c)
    intro x b i
    have eq : s.headError k = (i.setModel k ((i.face k).model.suspend false)).uncoverFace k := by
      have off : h.plus8.state = .off := by rw [plus]
      refine (State.headError_counts counts).trans ((if_pos off).trans ?_)
      rw [raises, s.changeHead_new k new, plus]
      rfl
    exact ⟨eq, by rw [eq]; exact State.uncoverFace_covered _ k⟩
  case good =>
    rw [State.headGood_counts counts, h.minus1_eq high]
    refine ⟨s.changeHead_settles k _, fun new => s.changeHead_dirty k ?_⟩
    rw [State.changeHead_face, if_pos rfl] at new
    exact new
  case run =>
    refine ⟨?_, fun more => ?_, fun last => ?_⟩
    · by_cases last : h.goodRun = 63
      · rw [State.headGood_recovers recovering last]
        refine s.changeHead_dirty k fun same => ?_
        exact HeadState.noConfusion ((congrArg Head.state same).trans recovering)
      · rw [State.headGood_runs recovering last]
        exact s.changeHead_dirty k fun same => Nat.succ_ne_self _ (congrArg Head.goodRun same)
    · rw [State.headGood_runs recovering more]
      exact s.changeHead_settles k _
    · rw [State.headGood_recovers recovering last]
      have new : ({ h with state := .active, errors := 0, goodRun := 64 } : Head) ≠ h := fun same =>
        HeadState.noConfusion ((congrArg Head.state same).trans recovering)
      dsimp only
      rw [s.changeHead_new k new]
      rw [← s.setHead_resume k]
      exact .ofMarks _ _

end

-- ==== Strand travel: pulses, cuts and timers (R47 to R60, R116, R132, R181) ====
section
/-!
PROOFS. What a pulse and a cut event do, one equation per row of R51, R56 and R57; then the timers and the two action words that
start and stop a strand.
-/
namespace Sys2Proof.Machine

/-! ### States that differ in their marks alone -/

/-- The event's operation may be replaced by one that leaves the same state. -/
theorem State.event_congr {s : State} {f g : State → State} (h : f s.opened = g s.opened) : s.event f = s.event g := by
  unfold State.event
  rw [h]

/-- A raised cause leaves every block's sequence count. -/
theorem State.raise_sequence (s : State) (c : Cause) (b : Fin 22) : ((s.raise c).mark b).sequence = (s.mark b).sequence := by
  unfold State.raise
  split
  · rfl
  · rw [State.markDirty_mark]
    split
    · next h => rw [← h]; rfl
    · rfl

/-- So does a mark. -/
theorem State.markDirty_sequence (s : State) (d b : Fin 22) :
    ((s.markDirty d).mark b).sequence = (s.mark b).sequence := by
  rw [State.markDirty_mark]
  split
  · next h => rw [← h]
  · rfl

theorem milliseconds_eq (n : Nat) : milliseconds n = 1000 * n := Nat.mul_comm n 1000

/-! ### Encoder pulses (R51, R52, R56) -/

section
variable {s : State} {k : Fin 4}

/-- In IDLE and STOPPING a pulse is ignored. -/
theorem State.encoderPulse_still (h : (s.unit k).state = .idle ∨ (s.unit k).state = .stopping) : s.encoderPulse k = s := by
  unfold State.encoderPulse
  dsimp only
  rw [(StrandUnit.moving_false_iff _).mpr h]
  rfl

theorem StrandUnit.tooSoon_iff (x : StrandSettings) (t : Nat) (u : StrandUnit) :
    u.tooSoon x t = true ↔ ∃ p, u.lastPulse = some p ∧ t - p < x.minPulseInterval := by
  unfold StrandUnit.tooSoon
  simp only [Option.any_eq_true, decide_eq_true_eq]

/-- A pulse too soon after the last is a glitch. -/
theorem State.encoderPulse_glitch (moving : (s.unit k).state = .casting ∨ (s.unit k).state = .held) {p : Nat}
    (last : (s.unit k).lastPulse = some p) (soon : s.timeBase - p < (s.settings k).minPulseInterval) :
    s.encoderPulse k = (s.setUnit k { s.unit k with glitches := bump (s.unit k).glitches }).raise .glitch := by
  unfold State.encoderPulse
  dsimp only
  rw [(StrandUnit.moving_iff _).mpr moving, (StrandUnit.tooSoon_iff _ _ _).mpr ⟨p, last, soon⟩]
  rfl

/-- Any other is accepted. -/
theorem State.encoderPulse_accepted (moving : (s.unit k).state = .casting ∨ (s.unit k).state = .held)
    (late : ∀ p, (s.unit k).lastPulse = some p → (s.settings k).minPulseInterval ≤ s.timeBase - p) :
    s.encoderPulse k = (s.setUnit k ((s.unit k).pulseAccepted (s.settings k) s.timeBase)).testComparator k := by
  have notSoon : (s.unit k).tooSoon (s.settings k) s.timeBase = false := by
    refine Bool.eq_false_iff.mpr fun h => ?_
    obtain ⟨p, last, soon⟩ := (StrandUnit.tooSoon_iff _ _ _).mp h
    exact absurd soon (Nat.not_lt.mpr (late p last))
  unfold State.encoderPulse
  dsimp only
  rw [(StrandUnit.moving_iff _).mpr moving, notSoon]
  rfl

/-- The comparator disarmed, or not met. -/
theorem State.testComparator_notMet (h : ∀ p, (s.unit k).comparator = some p → (s.unit k).travel < p) :
    s.testComparator k = s := by
  unfold State.testComparator
  split
  · rfl
  · next p armed => exact if_neg (Nat.not_le.mpr (h p armed))

/-- The comparator met. -/
theorem State.testComparator_met {p : Nat} (armed : (s.unit k).comparator = some p) (met : p ≤ (s.unit k).travel) :
    s.testComparator k = (s.cutEvent k).setUnit k
      { (s.cutEvent k).unit k with comparator := nextPoint (s.settings k).cutPeriod p } := by
  unfold State.testComparator
  rw [armed]
  exact if_pos met

end

/-- The comparator's next point (R56). -/
theorem nextPoint_eq (period point : Nat) : nextPoint period point =
    if period = 0 ∨ 2 ^ 40 - 1 < point + period then none else some (point + period) := by
  unfold nextPoint
  by_cases stop : period = 0
  · rw [if_pos stop, if_pos (.inl stop)]
  · simp only [stop, false_or, if_false]
    rfl

/-- The travel after a pulse (R52). -/
theorem StrandUnit.advance_eq (x : StrandSettings) (u : StrandUnit) {carry : Nat}
    (h : (u.fraction + x.incFrac) / 65536 = carry) : u.advance x = { u with
      travel := if 2 ^ 40 - 1 < u.travel + x.incInt + carry then 2 ^ 40 - 1 else u.travel + x.incInt + carry
      fraction := if 2 ^ 40 - 1 < u.travel + x.incInt + carry then 65535
        else u.fraction + x.incFrac - 65536 * carry } := by
  have rest : (u.fraction + x.incFrac) % 65536 = u.fraction + x.incFrac - 65536 * carry := by omega
  unfold StrandUnit.advance
  dsimp only
  rw [h, rest]
  by_cases top : 2 ^ 40 - 1 < u.travel + x.incInt + carry
  · rw [if_pos top, if_pos top]
    exact if_pos top
  · rw [if_neg top, if_neg top]
    exact if_neg top

/-- The strand's settings keep the fraction of the increment in its 16 bits. -/
theorem State.settings_incFrac_lt (s : State) (k : Fin 4) : (s.settings k).incFrac < 65536 := Memory.field_lt _ _ 2

/-! ### Cut events (R55, R57, R58) -/

section
variable (s : State) (k : Fin 4)

theorem State.cutEvent_accepted (h : (s.unit k).rejectCut (s.settings k) = none) :
    s.cutEvent k =
      ({ s with lineQueue := s.lineQueue ++ [QueueEntry.boundary k ((s.unit k).travel - (s.settings k).torchDistance)] }.setUnit k
        ((s.unit k).cutAccepted ((s.unit k).travel - (s.settings k).torchDistance))).markStrand k := by
  unfold State.cutEvent
  dsimp only
  rw [h]

theorem State.cutEvent_rejected {r : Reject} (h : (s.unit k).rejectCut (s.settings k) = some r) :
    s.cutEvent k = ((s.setUnit k ((s.unit k).cutRejected r)).raise .cutReject).markStrand k := by
  unfold State.cutEvent
  dsimp only
  rw [h]

/-- The cut line and CUT NOW make a cut event (R55). -/
theorem exec_cut {s : State} {k : Fin 4} {c : Instr}
    (h : c = .cutLineEdge k ∧ ((s.settings k).cutSource = 1 ∨ (s.settings k).cutSource = 3) ∨
      c = .cutNow (BitVec.ofNat 8 k.val) ∧ s.path.controlInFlight = none ∧
        ((s.unit k).state = .casting ∨ (s.unit k).state = .held)) :
    exec c s = .next (s.event fun t => t.cutEvent k) := by
  obtain ⟨rfl, source⟩ | ⟨rfl, flight, moving⟩ := h
  · have frame : exec (.cutLineEdge k) s = .next (s.event fun t => t.cutLine k) := rfl
    exact frame.trans (congrArg _ (State.event_congr (if_pos source)))
  · have frame : exec (.cutNow (BitVec.ofNat 8 k.val)) s = .next (s.event fun t => t.control (actionAt 2)
        (t.checkMoving (BitVec.ofNat 8 k.val)) fun u => u.onStrandArg (BitVec.ofNat 8 k.val) State.cutEvent) := rfl
    refine frame.trans (congrArg _ (State.event_congr ?_))
    rw [s.opened.checkMoving_none (strandArg_ofNat k) moving, s.opened.control_taken _ _ flight,
      s.opened.onStrandArg_some (strandArg_ofNat k)]

end

section
variable {x : StrandSettings} {u : StrandUnit}

/-- The conditions of R57, none of which holds. -/
theorem StrandUnit.rejectCut_none (moving : u.state = .casting ∨ u.state = .held) (reach : x.torchDistance ≤ u.travel)
    (after : u.lastBoundary < u.travel - x.torchDistance)
    (long : u.boundarySeen = true → x.minBilletLength ≤ u.travel - x.torchDistance - u.lastBoundary)
    (free : u.pendingBoundary = none) : u.rejectCut x = none := by
  have long' : ¬(u.boundarySeen && u.travel - x.torchDistance - u.lastBoundary < x.minBilletLength) = true := by
    simp only [Bool.and_eq_true, decide_eq_true_eq]
    exact fun ⟨seen, short⟩ => absurd short (Nat.not_lt.mpr (long seen))
  unfold StrandUnit.rejectCut
  rw [(StrandUnit.moving_iff u).mpr moving, if_neg (by decide), if_neg (Nat.not_lt.mpr reach), if_neg (Nat.not_le.mpr after),
    if_neg long', free]
  rfl

/-- The first condition of R57 that holds gives the reason. -/
theorem StrandUnit.rejectCut_some {r : Reject}
    (h : ¬(u.state = .casting ∨ u.state = .held) ∧ r = .stateForbids ∨
     (u.state = .casting ∨ u.state = .held) ∧
      (u.travel < x.torchDistance ∧ r = .shortTravel ∨
       x.torchDistance ≤ u.travel ∧
        (u.travel - x.torchDistance ≤ u.lastBoundary ∧ r = .notAfter ∨
         u.lastBoundary < u.travel - x.torchDistance ∧
          (u.boundarySeen = true ∧ u.travel - x.torchDistance - u.lastBoundary < x.minBilletLength ∧ r = .shortBillet ∨
           (u.boundarySeen = false ∨ x.minBilletLength ≤ u.travel - x.torchDistance - u.lastBoundary) ∧
            u.pendingBoundary ≠ none ∧ r = .pending)))) : u.rejectCut x = some r := by
  unfold StrandUnit.rejectCut
  obtain ⟨still, rfl⟩ | ⟨moving, rest⟩ := h
  · rw [if_pos (by simp only [Bool.not_eq_true', Bool.eq_false_iff, ne_eq, StrandUnit.moving_iff]; exact still)]
  rw [(StrandUnit.moving_iff u).mpr moving, if_neg (by decide)]
  obtain ⟨short, rfl⟩ | ⟨reach, rest⟩ := rest
  · exact if_pos short
  rw [if_neg (Nat.not_lt.mpr reach)]
  obtain ⟨before, rfl⟩ | ⟨after, rest⟩ := rest
  · exact if_pos before
  rw [if_neg (Nat.not_le.mpr after)]
  obtain ⟨seen, short, rfl⟩ | ⟨long, waits, rfl⟩ := rest
  · exact if_pos (by simp only [seen, Bool.true_and, decide_eq_true_eq]; exact short)
  · rw [if_neg (by
      simp only [Bool.and_eq_true, decide_eq_true_eq]
      rintro ⟨seen, short⟩
      obtain unseen | long := long
      · exact Bool.false_ne_true (unseen.symm.trans seen)
      · exact absurd short (Nat.not_lt.mpr long))]
    exact if_pos (Option.isSome_iff_ne_none.mpr waits)

end

/-! ### The expiries (R53, R132, R181) -/

section
variable {s : State} {k : Fin 4} {d : Nat}

theorem State.holdExpiry_runs (timer : (s.unit k).holdTimer = some d) (casting : (s.unit k).state = .casting) :
    s.holdExpiry k =
      ((((s.atTime d).setUnit k (s.unit k).becomeHeld).setPredictor k (s.predictor k).halt).raise .held).markStrand k := by
  unfold State.holdExpiry
  dsimp only
  rw [timer]
  exact if_pos casting

theorem State.alertExpiry_runs (timer : (s.billet k).alertTimer = some d) :
    s.alertExpiry k =
      ((s.atTime d).setBillet k { s.billet k with alert := false, alertTimer := none }).markStrand k := by
  unfold State.alertExpiry
  dsimp only
  rw [timer]

theorem State.periodExpiry_runs (timer : s.statusTimer = some d) :
    s.periodExpiry = { (s.atTime d).mapMarks BlockMarks.atPeriod with
      statusTimer := some (max s.timeBase d + milliseconds s.globals.statusPeriod) } := by
  unfold State.periodExpiry
  rw [timer]
  rfl

/-- A unit set, then the predictor of the same strand. -/
theorem State.setUnit_setPredictor (s : State) (k : Fin 4) (u : StrandUnit) (p : Predictor) :
    (s.setUnit k u).setPredictor k p = s.withStrand k { s.strand k with unit := u, predictor := p } := by
  unfold State.setPredictor
  have strand : (s.setUnit k u).strand k = { s.strand k with unit := u } := vget_vset_same _ _ _
  rw [strand]
  unfold State.setUnit State.setStrand State.withStrand
  rw [vset_vset]

end

/-! ### STRAND START and STRAND STOP (R48, R49, R69) -/

/-- What the start makes of the models does not depend on the marks. -/
theorem State.onFaces_startModel_marks (s : State) (k : Fin 4) (m : Vector BlockMarks 22) :
    State.onFaces k State.startModel { s with marks := m } = { State.onFaces k State.startModel s with marks := m } := rfl

/-- STRAND START. -/
theorem State.startStrand_settles (s : State) (k : Fin 4) :
    (State.onFaces k State.startModel (s.setStrand k
      { unit := (s.strand k).unit.start (s.settings k) s.timeBase (s.enabledFaces k)
        predictor := (s.strand k).predictor.start (s.settings k).nominalPitch
        billet := (s.strand k).billet.start })).Settles (s.startStrand k) := by
  unfold State.startStrand
  dsimp only
  generalize s.setStrand k _ = o
  exact .ofMarks _ _

/-- A model told of STRAND START (R69). -/
theorem Model.atStart_eq (m : Model) : m.atStart =
    if m.state = .warmUp ∨ m.state = .ready then
      { m with lastStamp := none, state := .warmUp, warmUp := 0, forView := false, forHead := false }
    else { m with lastStamp := none } := by
  unfold Model.atStart
  cases state : m.state <;> simp [Model.enterWarmUp]

/-- STRAND STOP, by whether the strand's boundary marker holds the place (R60). -/
theorem State.stopStrand_settles (s : State) (k : Fin 4) :
    (if holdsBoundary k s.lineQueue then s.setUnit k ((s.unit k).stop .owed)
      else { s with lineQueue := s.lineQueue ++ [QueueEntry.stop k (s.unit k).travel] }.setUnit k
        ((s.unit k).stop .queued)).Settles (s.stopStrand k) := by
  unfold State.stopStrand
  dsimp only
  split
  · exact .markDirty _ _
  · exact .markDirty _ _

/-- Every open entry closes. -/
theorem closeAllGaps_eq (t : Nat) (l : List GapEntry) :
    closeAllGaps t l = l.map fun g => if g.upTo = none then { g with upTo := some t } else g := by
  unfold closeAllGaps
  simp only [Option.isNone_iff_eq_none]

end Sys2Proof.Machine

open Sys2Proof Sys2Proof.Machine

/-! ### The statements -/

/-- Settles O22: each row of a pulse by its equation, the advance by arithmetic. -/
theorem encoderPulseAdvancesTheTravel : Obligations.EncoderPulseAdvancesTheTravel := by
  refine ⟨?pulses, ?advance⟩
  case pulses =>
    intro s k at_ low u x now sum carry next travel moved
    refine ⟨fun moving small late => ?accepted, fun still => .of_event rfl low ?still, fun moving p last soon => ?glitch⟩
    case accepted =>
      have carried : (u.fraction + x.incFrac) / 65536 = carry := by
        have small' := s.settings_incFrac_lt k
        change x.incFrac < 65536 at small'
        simp only [carry, sum]
        split <;> omega
      have accept : (s.opened.atTime at_).encoderPulse k = moved.testComparator k := by
        refine (State.encoderPulse_accepted (s := s.opened.atTime at_) moving late).trans (congrArg (State.testComparator · k) ?_)
        have pulse : u.pulseAccepted x now = { u.advance x with
            lastPulse := some now, holdTimer := some (now + milliseconds x.holdTime), state := .casting } := rfl
        rw [u.advance_eq x carried] at pulse
        rw [milliseconds_eq] at pulse
        exact (congrArg ((s.opened.atTime at_).setUnit k) pulse).trans rfl
      have unit : moved.unit k = { u with
          travel := travel, fraction := if 2 ^ 40 - 1 < next then 65535 else sum - 65536 * carry, lastPulse := some now,
          holdTimer := some (now + 1000 * x.holdTime), state := .casting } :=
        congrArg Strand.unit (vget_vset_same s.strands k _)
      refine ⟨fun notMet => .of_event rfl low (accept.trans (State.testComparator_notMet ?_)), fun p armed met => ?_⟩
      · rw [unit]
        exact notMet
      · intro c
        refine .of_event rfl low (accept.trans ((State.testComparator_met (p := p) ?_ ?_).trans ?_))
        · rw [unit]
          exact armed
        · rw [unit]
          exact met
        · rw [nextPoint_eq]
          rfl
    case still => exact State.encoderPulse_still (s := s.opened.atTime at_) still
    case glitch =>
      refine .of_event_settles rfl low ?_
      rw [State.encoderPulse_glitch (s := s.opened.atTime at_) moving last soon]
      exact .raise _ _
  case advance =>
    intro x u inRange small v
    have eq : v = _ := u.advance_eq x rfl
    clear_value v
    subst eq
    dsimp only
    split <;> omega

/-- Settles O23: no condition of R57 holds. -/
theorem cutIsAccepted : Obligations.CutIsAccepted := by
  intro s k c u x b after moving reach behind long free
  have accepted : u.rejectCut x = none := StrandUnit.rejectCut_none moving reach behind long free
  refine ⟨?_, fun source low => ⟨_, exec_cut (source.imp id fun ⟨now, flight⟩ => ⟨now, flight, moving⟩), ?_⟩⟩
  · rw [s.cutEvent_accepted k accepted]
    exact .markDirty _ _
  · refine .trans ?_ (s.event_settles (fun t => t.cutEvent k) low)
    rw [s.opened.cutEvent_accepted k accepted]
    exact .markDirty _ _

/-- Settles O24: the first condition of R57 that holds. -/
theorem cutIsRejected : Obligations.CutIsRejected := by
  refine ⟨?rejected, ?ignored⟩
  case rejected =>
    intro s k r c u x b casting after why
    have rejected : u.rejectCut x = some r := StrandUnit.rejectCut_some why
    have settles : (after s).Settles (s.cutEvent k) := by
      rw [s.cutEvent_rejected k rejected]
      exact .trans (.raise _ _) (.markDirty _ _)
    have settlesOpened : (after s.opened).Settles (s.opened.cutEvent k) := by
      rw [s.opened.cutEvent_rejected k rejected]
      exact .trans (.raise _ _) (.markDirty _ _)
    have dirty (o : State) (strand : (o.unit k).rejectCut (o.settings k) = some r) :
        ((o.cutEvent k).mark (strandBlock k)).dirty = true := by
      rw [o.cutEvent_rejected k strand]
      exact State.dirty_markDirty _ _ _ (.inr rfl)
    refine ⟨settles, dirty s rejected, fun source low => ⟨_, exec_cut source, ?_, ?_⟩⟩
    · exact settlesOpened.trans (s.event_settles (fun t => t.cutEvent k) low)
    · refine s.noted_event (fun t => t.cutEvent k) _ low ?_ (.inl (dirty s.opened rejected))
      rw [s.opened.cutEvent_rejected k rejected]
      exact (State.markDirty_sequence _ _ _).trans (State.raise_sequence _ _ _)
  case ignored =>
    intro s k low line both
    exact .of_event (f := fun t => t.cutLine k) rfl low (if_neg fun source => source.elim line both)

/-- Settles O25: each timer by its equation. -/
theorem timerExpiriesTakeEffect : Obligations.TimerExpiriesTakeEffect := by
  refine ⟨fun s k d low casting timer => ?hold, fun s k d low timer => ?alert, fun s d low timer => ?period⟩
  case hold =>
    refine .of_event_settles (f := fun t => t.holdExpiry k) rfl low ?_
    rw [State.holdExpiry_runs (s := s.opened) timer casting, State.setUnit_setPredictor]
    exact .trans (.raise _ _) (.markDirty _ _)
  case alert =>
    refine .of_event_settles (f := fun t => t.alertExpiry k) rfl low ?_
    rw [State.alertExpiry_runs (s := s.opened) timer]
    exact .markDirty _ _
  case period =>
    have restarts := State.periodExpiry_runs (s := s.opened) timer
    rw [milliseconds_eq] at restarts
    have settles := s.event_settles State.periodExpiry low
    rw [restarts] at settles
    refine ⟨_, rfl, .trans (.ofMarks _ _) settles, fun b marked => ?_⟩
    have mark : (State.periodExpiry s.opened).mark b = (s.mark b).atPeriod := by
      rw [restarts]
      exact State.mapMarks_mark _ _ _
    refine s.noted_event _ b low ?_ (.inl ?_)
    · rw [mark]
      rfl
    · rw [mark]
      exact Bool.or_eq_true_iff.mpr (.inr marked)

/-- Settles O26: the writes are taken, and the start's marks leave the models alone. -/
theorem strandStartAndStop : Obligations.StrandStartAndStop := by
  refine ⟨?start, ?model, ?stop⟩
  case start =>
    intro s k x low flight run idle ok
    refine .of_control_taken s rfl low flight (s.opened.checkStart_none (strandArg_ofNat k) run idle ok) ?_
    rw [s.opened.onStrandArg_some (strandArg_ofNat k)]
    have settles := s.opened.startStrand_settles k
    unfold StrandUnit.start at settles
    rw [milliseconds_eq] at settles
    exact settles
  case model =>
    intro s k m
    rw [← m.atStart_eq]
    rfl
  case stop =>
    intro s k u stopped low flight moving
    refine .of_control_taken s rfl low flight (s.opened.checkMoving_none (strandArg_ofNat k) moving) ?_
    rw [s.opened.onStrandArg_some (strandArg_ofNat k)]
    have settles := s.opened.stopStrand_settles k
    unfold StrandUnit.stop at settles
    rw [closeAllGaps_eq] at settles
    exact settles

end

-- ==== Strand travel: coverage and the view (R61 to R71, R144) ====
section
/-!
PROOFS. The gap list of a strand, one equation per case of R64; then the view level, whose edges reach the models of the strand's
faces.
-/
namespace Sys2Proof.Machine

/-! ### A model suspended for the view (R70, R71) -/

section
variable {s : State} {k : Fin 16}

/-- A READY model gives the notice that its face is not covered. -/
theorem State.suspendForView_ready (ready : (s.face k).model.state = .ready) :
    s.suspendForView k = (s.setModel k ((s.face k).model.suspend true)).uncoverFace k := if_pos ready

theorem State.suspendForView_other (other : (s.face k).model.state ≠ .ready) :
    s.suspendForView k = s.setModel k ((s.face k).model.suspend true) := if_neg other

end

/-! ### States that differ in their marks alone -/

/-- The second state is the first but for the marks of the blocks. -/
def State.Marked (a b : State) : Prop := ∃ m, b = { a with marks := m }

namespace State.Marked

variable {a b c : State}

theorem refl (s : State) : s.Marked s := ⟨s.marks, rfl⟩

theorem trans (h : a.Marked b) (g : b.Marked c) : a.Marked c := by
  obtain ⟨m, rfl⟩ := h
  obtain ⟨n, rfl⟩ := g
  exact ⟨n, rfl⟩

theorem settles (h : a.Marked b) : a.Settles b := by
  obtain ⟨m, rfl⟩ := h
  exact .ofMarks a m

theorem markDirty (s : State) (b : Fin 22) : s.Marked (s.markDirty b) := ⟨_, rfl⟩

theorem raise (s : State) (c : Cause) : (s.withCause c).Marked (s.raise c) := s.raise_eq_withCause c

/-- A change of a strand's unit is that change, but for the mark of its block. -/
theorem changeUnit (s : State) (k : Fin 4) (u : StrandUnit) : (s.setUnit k u).Marked (s.changeUnit k u) := by
  unfold State.changeUnit
  split
  · exact .refl _
  · exact .markDirty _ _

/-- What a change made for each face makes of two such states differs in the marks alone, if the change does. -/
theorem onFaces {f : State → Fin 16 → State} (hf : ∀ (x y : State) (j : Fin 16), x.Marked y → (f x j).Marked (f y j)) (k : Fin 4)
    (h : a.Marked b) : (State.onFaces k f a).Marked (State.onFaces k f b) :=
  hf _ _ _ (hf _ _ _ (hf _ _ _ (hf _ _ _ h)))

/-- Two units that differ thus are told of a face that is not covered alike. -/
theorem uncoverFace (k : Fin 16) (h : a.Marked b) : (a.uncoverFace k).Marked (b.uncoverFace k) := by
  obtain ⟨m, rfl⟩ := h
  obtain ⟨n, first⟩ := changeUnit a (strandOf k) ((a.unit (strandOf k)).uncover (faceIn k))
  obtain ⟨o, second⟩ := changeUnit { a with marks := m } (strandOf k) ((a.unit (strandOf k)).uncover (faceIn k))
  refine ⟨o, second.trans ?_⟩
  unfold State.uncoverFace
  rw [first]
  rfl

theorem suspendForView (x y : State) (k : Fin 16) (h : x.Marked y) : (x.suspendForView k).Marked (y.suspendForView k) := by
  obtain ⟨m, rfl⟩ := h
  have suspended : (x.setModel k ((x.face k).model.suspend true)).Marked
      (State.setModel { x with marks := m } k ((x.face k).model.suspend true)) := ⟨m, rfl⟩
  by_cases ready : (x.face k).model.state = .ready
  · rw [State.suspendForView_ready ready, State.suspendForView_ready (s := { x with marks := m }) ready]
    exact suspended.uncoverFace k
  · rw [State.suspendForView_other ready, State.suspendForView_other (s := { x with marks := m }) ready]
    exact suspended

theorem resumeForView (x y : State) (k : Fin 16) (h : x.Marked y) : (x.resumeForView k).Marked (y.resumeForView k) := by
  obtain ⟨m, rfl⟩ := h
  exact ⟨m, rfl⟩

end State.Marked

/-! ### The gap list (R63 to R65, R144) -/

/-- A change of a strand's unit that is one marks the strand's block. -/
theorem State.changeUnit_dirty (s : State) (k : Fin 4) {u : StrandUnit} (new : u ≠ s.unit k) :
    ((s.changeUnit k u).mark (strandBlock k)).dirty = true := by
  unfold State.changeUnit
  rw [if_neg new]
  exact State.dirty_markDirty _ _ _ (.inr rfl)

theorem GapEntry.overlapsBillet_iff (head tail : Nat) (g : GapEntry) : g.overlapsBillet head tail = true ↔
    g.start < tail ∧ ∀ e, g.upTo = some e → head ≤ e := by
  unfold GapEntry.overlapsBillet
  cases g.upTo <;> simp

/-- The faces that the entries of a list which overlap the billet name, over those of an accumulator. -/
theorem foldl_lost_getLsbD (head tail : Nat) (f : Fin 4) (l : List GapEntry) (m : BitVec 4) :
    (l.foldl (fun m g => if g.overlapsBillet head tail then m ||| g.mask else m) m).getLsbD f.val = true ↔
      m.getLsbD f.val = true ∨ ∃ g ∈ l, g.overlapsBillet head tail = true ∧ g.mask.getLsbD f.val = true := by
  induction l generalizing m with
  | nil => simp
  | cons g rest ih =>
    rw [List.foldl_cons, ih]
    simp only [List.exists_mem_cons_iff]
    by_cases hit : g.overlapsBillet head tail = true
    · simp only [hit, if_true, true_and, BitVec.getLsbD_or, Bool.or_eq_true, or_assoc]
    · simp only [Bool.not_eq_true] at hit
      simp only [hit, Bool.false_eq_true, if_false, false_and, false_or]

/-- Every face of a mask is among those of another. -/
theorem mask_within_iff (m c : BitVec 4) : m &&& ~~~c = 0 ↔ ∀ j : Fin 4, m.getLsbD j.val = true → c.getLsbD j.val = true := by
  revert m c
  decide

theorem closeGaps_eq (covered : BitVec 4) (t : Nat) (l : List GapEntry) : closeGaps covered t l = l.map fun g =>
    if g.upTo = none ∧ ∀ j : Fin 4, g.mask.getLsbD j.val = true → covered.getLsbD j.val = true then
      { g with upTo := some t }
    else g := by
  unfold closeGaps
  simp only [Bool.and_eq_true, Option.isNone_iff_eq_none, beq_iff_eq, mask_within_iff]

theorem joinLast_append (f : Fin 4) (before : List GapEntry) (g : GapEntry) :
    joinLast f (before ++ [g]) = before ++ [{ g with mask := g.mask ||| faceMask f, upTo := none }] := by
  induction before with
  | nil => rfl
  | cons a rest ih =>
    cases rest with
    | nil => rfl
    | cons b rest => exact congrArg (a :: ·) ih

section
variable {f : Fin 4} {t : Nat} {l before : List GapEntry} {g : GapEntry}

/-- The last entry began at this travel. -/
theorem openGap_here (last : l = before ++ [g]) (here : g.start = t) : openGap f t l = (joinLast f l, false) := by
  unfold openGap
  rw [last, List.getLast?_concat]
  exact if_pos (beq_iff_eq.mpr here)

/-- The list has room. -/
theorem openGap_new (room : l.length < 8) (elsewhere : ∀ before g, l = before ++ [g] → g.start ≠ t) :
    openGap f t l = (l ++ [{ mask := faceMask f, start := t, upTo := none }], false) := by
  have no : ¬(l.getLast?.any fun g => g.start == t) = true := by
    rw [Option.any_eq_true]
    rintro ⟨g, last, here⟩
    obtain ⟨before, rfl⟩ := List.getLast?_eq_some_iff.mp last
    exact elsewhere _ g rfl (beq_iff_eq.mp here)
  unfold openGap
  rw [if_neg no]
  exact if_pos room

/-- The list is full. -/
theorem openGap_merges (last : l = before ++ [g]) (full : 8 ≤ l.length) (elsewhere : g.start ≠ t) :
    openGap f t l = (joinLast f l, true) := by
  have no : ¬(l.getLast?.any fun g => g.start == t) = true := by
    rw [last, List.getLast?_concat]
    exact fun here => elsewhere (beq_iff_eq.mp here)
  unfold openGap
  rw [if_neg no]
  exact if_neg (Nat.not_lt.mpr full)

variable {u : StrandUnit}

theorem inOpenGap_iff : inOpenGap f l = true ↔ ∃ g ∈ l, g.upTo = none ∧ g.mask.getLsbD f.val = true := by
  unfold inOpenGap
  simp only [List.any_eq_true, Bool.and_eq_true, Option.isNone_iff_eq_none]

theorem StrandUnit.not_moving (still : ¬(u.state = .casting ∨ u.state = .held)) : u.moving = false :=
  Bool.eq_false_iff.mpr fun h => still ((StrandUnit.moving_iff u).mp h)

theorem StrandUnit.uncover_still (still : ¬(u.state = .casting ∨ u.state = .held)) :
    u.uncover f = { u with covered := u.covered &&& ~~~faceMask f } := by
  unfold StrandUnit.uncover
  rw [StrandUnit.not_moving still]
  rfl

theorem StrandUnit.uncover_open (moving : u.state = .casting ∨ u.state = .held) (listed : inOpenGap f u.gaps = true) :
    u.uncover f = { u with covered := u.covered &&& ~~~faceMask f, watched := u.watched ||| faceMask f } := by
  unfold StrandUnit.uncover
  dsimp only
  rw [(StrandUnit.moving_iff u).mpr moving]
  exact if_pos listed

theorem StrandUnit.uncover_opens (moving : u.state = .casting ∨ u.state = .held) (unlisted : ¬inOpenGap f u.gaps = true)
    {r : List GapEntry × Bool} (hr : openGap f u.travel u.gaps = r) :
    u.uncover f = { u with
      covered := u.covered &&& ~~~faceMask f, watched := u.watched ||| faceMask f
      gaps := r.1, gapMerges := if r.2 then bump u.gapMerges else u.gapMerges } := by
  unfold StrandUnit.uncover
  dsimp only
  rw [(StrandUnit.moving_iff u).mpr moving, hr]
  exact if_neg unlisted

theorem StrandUnit.cover_still (still : ¬(u.state = .casting ∨ u.state = .held)) :
    u.cover f = { u with covered := u.covered ||| faceMask f } := by
  unfold StrandUnit.cover
  rw [StrandUnit.not_moving still]
  rfl

theorem StrandUnit.cover_moving (moving : u.state = .casting ∨ u.state = .held) :
    u.cover f = { u with
      covered := u.covered ||| faceMask f, gaps := closeGaps (u.covered ||| faceMask f) u.travel u.gaps } := by
  unfold StrandUnit.cover
  rw [(StrandUnit.moving_iff u).mpr moving]
  rfl

end

/-! ### The view level (R61, R62, R70, R71) -/

section
variable {s : State} {k : Fin 4}

theorem State.viewEdge_short {x : HeldLevel} (short : x.upTo < max x.since (s.unit k).viewSettled + 1000) :
    s.viewEdge k x = s.atTime x.upTo := if_pos short

theorem State.viewEdge_long {x : HeldLevel} (long : max x.since (s.unit k).viewSettled + 1000 ≤ x.upTo) :
    s.viewEdge k x = (s.atTime (max x.since (s.unit k).viewSettled + 1000)).viewChange k x.level := if_neg (Nat.not_lt.mpr long)

theorem State.viewBlocks_marked (s : State) (k : Fin 4) :
    (State.onFaces k State.suspendForView
      ((s.setUnit k { s.unit k with
        viewActive := true, viewSettled := s.timeBase, viewFlag := .set
        viewBlocked := bump (s.unit k).viewBlocked }).withCause .view)).Marked (s.viewBlocks k) :=
  .onFaces .suspendForView k (.trans (.raise _ _) (.markDirty _ _))

theorem State.viewClears_marked (s : State) (k : Fin 4) :
    (State.onFaces k State.resumeForView
      (s.setUnit k { s.unit k with
        viewActive := false, viewSettled := s.timeBase
        viewFlag := if (s.unit k).viewFlag = .acked then .clear else (s.unit k).viewFlag })).Marked (s.viewClears k) :=
  .onFaces .resumeForView k (.markDirty _ _)

end

end Sys2Proof.Machine

open Sys2Proof Sys2Proof.Machine

/-! ### The statements -/

/-- Settles O27: each case of a notice by its equation. -/
theorem coverageKeepsTheGapList : Obligations.CoverageKeepsTheGapList := by
  refine ⟨?notices, fun head tail l => ⟨fun f => ?_, rfl⟩, ?cases⟩
  case notices =>
    intro s k j out seen
    exact ⟨(State.Marked.changeUnit s j out).settles, s.changeUnit_dirty j, (State.Marked.changeUnit s j seen).settles,
      s.changeUnit_dirty j⟩
  · refine (foldl_lost_getLsbD head tail f l 0).trans ?_
    simp only [GapEntry.overlapsBillet_iff, BitVec.ofNat_eq_ofNat, BitVec.getLsbD_zero, Bool.false_eq_true, false_or]
    exact exists_congr fun g => and_congr_right fun _ => and_comm
  case cases =>
    intro u f mask casting out seen inOpen joined now
    refine ⟨fun still => ⟨StrandUnit.uncover_still still, StrandUnit.cover_still still⟩,
      fun moving listed => StrandUnit.uncover_open moving (inOpenGap_iff.mpr listed), ?here, ?new, ?merges, fun moving => ?covers⟩
    case here =>
      intro before g moving unlisted last start
      refine (StrandUnit.uncover_opens moving (unlisted ∘ inOpenGap_iff.mp) (openGap_here last start)).trans ?_
      rw [last, joinLast_append]
      rfl
    case new =>
      intro moving unlisted room elsewhere
      exact StrandUnit.uncover_opens moving (unlisted ∘ inOpenGap_iff.mp) (openGap_new room elsewhere)
    case merges =>
      intro before g moving unlisted last full elsewhere
      refine (StrandUnit.uncover_opens moving (unlisted ∘ inOpenGap_iff.mp) (openGap_merges last full elsewhere)).trans ?_
      rw [last, joinLast_append]
      rfl
    case covers =>
      rw [StrandUnit.cover_moving moving, closeGaps_eq]
      rfl

/-- Settles O28: the edge by the level held, then the models' own rows. -/
theorem viewEdgeMovesTheModels : Obligations.ViewEdgeMovesTheModels := by
  refine ⟨?edge, ?faces, ?models⟩
  case edge =>
    intro s k level since upTo low u due now at_
    have frame (b : State) (settles : b.Settles (s.opened.viewEdge k ⟨level, since, upTo⟩)) :
        Answers (.viewLevelEdge k ⟨level, since, upTo⟩) s b :=
      .of_event_settles (f := fun t => t.viewEdge k ⟨level, since, upTo⟩) rfl low settles
    have long (h : due ≤ upTo) : s.opened.viewEdge k ⟨level, since, upTo⟩ = (at_ due).viewChange k level :=
      State.viewEdge_long (s := s.opened) (x := ⟨level, since, upTo⟩) h
    refine ⟨fun short => frame _ ?_, fun held inactive active => frame _ ?_, fun held active inactive => frame _ ?_,
      fun held same => frame _ ?_⟩
    · rw [State.viewEdge_short (s := s.opened) (x := ⟨level, since, upTo⟩) short]
      exact .refl _
    · have change : (at_ due).viewChange k level = (at_ due).viewBlocks k := by
        unfold State.viewChange
        rw [active, show ((at_ due).unit k).viewActive = false from inactive]
      rw [long held, change]
      exact ((at_ due).viewBlocks_marked k).settles
    · have change : (at_ due).viewChange k level = (at_ due).viewClears k := by
        unfold State.viewChange
        rw [inactive, show ((at_ due).unit k).viewActive = true from active]
      rw [long held, change]
      exact ((at_ due).viewClears_marked k).settles
    · have change : (at_ due).viewChange k level = at_ due := by
        have held_ : ((at_ due).unit k).viewActive = true ↔ level = .active := same
        unfold State.viewChange
        cases level <;> simp_all
      rw [long held, change]
      exact .refl _
  case faces =>
    intro s k x suspended
    exact ⟨State.suspendForView_ready, State.suspendForView_other, rfl⟩
  case models =>
    intro m view
    refine ⟨fun off => if_pos off, fun on => ?suspend, fun other => if_neg other, fun suspended => ⟨fun more => ?stays, fun last => ?warms⟩⟩
    case suspend =>
      unfold Model.suspend
      rw [if_neg on]
      cases view <;> simp
    case stays =>
      unfold Model.resume
      rw [if_pos suspended]
      cases view <;> simp_all
    case warms =>
      unfold Model.resume
      rw [if_pos suspended]
      cases view <;> simp_all [Model.enterWarmUp]

end

-- ==== The Mark Predictor: misses (R121, R122) ====
section
/-!
PROOFS. The misses that a stamp makes end before its fuel does, so each is followed by a stamp of its own; a stamp changes published
fields alone.
-/
namespace Sys2Proof.Machine

section
variable (x : StrandSettings) (t : Nat)

/-- The predictor takes a miss from the stamp. -/
def Predictor.late (x : StrandSettings) (t : Nat) (p : Predictor) : Prop :=
  (p.state = .locked ∨ p.state = .coasting) ∧ p.nextMark + x.tolerance + x.gap < t

theorem Predictor.late_iff (p : Predictor) :
    (p.holding && p.nextMark + x.tolerance + x.gap < t) = true ↔ p.late x t := by
  unfold Predictor.late
  rw [Bool.and_eq_true, p.holding_iff, decide_eq_true_eq]

/-- With no miss to take, no fuel is used. -/
theorem Predictor.expire_quiet {p : Predictor} (h : ¬p.late x t) (n : Nat) : p.expire x t n = p := by
  cases n with
  | zero => rfl
  | succ n => exact if_neg (h ∘ (p.late_iff x t).mp)

theorem Predictor.expire_late {p : Predictor} (h : p.late x t) (n : Nat) :
    p.expire x t (n + 1) = (p.miss x.missLimit).expire x t n := if_pos ((p.late_iff x t).mpr h)

/-- A miss below the limit. -/
theorem Predictor.miss_below {missLimit : Nat} {p : Predictor} (low : p.missCount + 1 < missLimit) : p.miss missLimit = { p with
    lastMark := p.nextMark, nextMark := p.nextMark + p.wholePitch, missCount := p.missCount + 1,
    misses := bump p.misses, state := .coasting } := if_neg (Nat.not_le.mpr low)

/-- The miss that loses the lock. -/
theorem Predictor.miss_last {missLimit : Nat} {p : Predictor} (high : missLimit ≤ p.missCount + 1) : p.miss missLimit = { p with
    lastMark := p.nextMark, nextMark := p.nextMark + p.wholePitch, missCount := p.missCount + 1,
    misses := bump p.misses, state := .seeking, candidate := none, lockLosses := bump p.lockLosses } := if_pos high

theorem Predictor.miss_last_quiet {p : Predictor} (high : x.missLimit ≤ p.missCount + 1) : ¬(p.miss x.missLimit).late x t := by
  rw [Predictor.miss_last high]
  rintro ⟨holding | holding, -⟩ <;> exact nomatch holding

/-- Fuel beyond the misses left is not used. -/
theorem Predictor.expire_fuel (n : Nat) (p : Predictor) (enough : x.missLimit ≤ p.missCount + (n + 1)) :
    p.expire x t (n + 2) = p.expire x t (n + 1) := by
  induction n generalizing p with
  | zero =>
    by_cases late : p.late x t
    · have last := Predictor.miss_last_quiet x t enough
      rw [Predictor.expire_late x t late, Predictor.expire_late x t late, Predictor.expire_quiet x t last,
        Predictor.expire_quiet x t last]
    · rw [Predictor.expire_quiet x t late, Predictor.expire_quiet x t late]
  | succ n ih =>
    by_cases late : p.late x t
    · rw [Predictor.expire_late x t late, Predictor.expire_late x t late]
      by_cases high : x.missLimit ≤ p.missCount + 1
      · have last := Predictor.miss_last_quiet x t high
        rw [Predictor.expire_quiet x t last, Predictor.expire_quiet x t last]
      · refine ih _ ?_
        rw [Predictor.miss_below (Nat.not_le.mp high)]
        exact (by omega : x.missLimit ≤ p.missCount + 1 + (n + 1))
    · rw [Predictor.expire_quiet x t late, Predictor.expire_quiet x t late]

/-- What a pulse sets in a predictor, none of it published. -/
def Predictor.pulseFields (p : Predictor) : Nat × Nat × Nat × Bool × Bool :=
  (p.pitch, p.pulseTravel, p.pulseFraction, p.pulseValid, p.haltMark)

theorem Predictor.miss_pulseFields (n : Nat) (p : Predictor) : (p.miss n).pulseFields = p.pulseFields := by
  by_cases high : n ≤ p.missCount + 1
  · rw [Predictor.miss_last high]
    rfl
  · rw [Predictor.miss_below (Nat.not_le.mp high)]
    rfl

theorem Predictor.expire_pulseFields (n : Nat) (p : Predictor) : (p.expire x t n).pulseFields = p.pulseFields := by
  induction n generalizing p with
  | zero => rfl
  | succ n ih =>
    by_cases late : p.late x t
    · rw [Predictor.expire_late x t late, ih, Predictor.miss_pulseFields]
    · rw [Predictor.expire_quiet x t late]

end

/-- A predictor is its published fields and what a pulse sets. -/
theorem Predictor.eq_of_published {p q : Predictor} (published : q.published = p.published) (pulse : q.pulseFields = p.pulseFields) :
    q = p := by
  cases p
  cases q
  simp_all [Predictor.published, Predictor.pulseFields]

/-- A stamp that changes the record marks the strand's block. -/
theorem State.changePredictor_stamp (s : State) (k : Fin 4) (t : Nat) :
    s.changePredictor k ((s.predictor k).stamp (s.settings k) t) =
      if (s.predictor k).stamp (s.settings k) t = s.predictor k then
        s.setPredictor k ((s.predictor k).stamp (s.settings k) t)
      else (s.setPredictor k ((s.predictor k).stamp (s.settings k) t)).markStrand k := by
  have pulse : ((s.predictor k).stamp (s.settings k) t).pulseFields = (s.predictor k).pulseFields :=
    Predictor.expire_pulseFields _ _ _ _
  unfold State.changePredictor
  by_cases same : (s.predictor k).stamp (s.settings k) t = s.predictor k
  · rw [if_pos same, if_pos (by rw [same])]
  · rw [if_neg same, if_neg fun published => same (Predictor.eq_of_published published pulse)]

section
variable {s : State} {k : Fin 4} {t : Nat}

theorem State.stampPredictor_lost (holding : (s.predictor k).state = .locked ∨ (s.predictor k).state = .coasting)
    (lost : ((s.predictor k).stamp (s.settings k) t).state = .seeking) :
    s.stampPredictor k t =
      ((s.changePredictor k ((s.predictor k).stamp (s.settings k) t)).raise .markLost).markStrand k :=
  if_pos (by rw [(s.predictor k).holding_iff.mpr holding, lost]; rfl)

theorem State.stampPredictor_kept (kept : ¬(((s.predictor k).state = .locked ∨ (s.predictor k).state = .coasting) ∧
    ((s.predictor k).stamp (s.settings k) t).state = .seeking)) :
    s.stampPredictor k t = s.changePredictor k ((s.predictor k).stamp (s.settings k) t) :=
  if_neg fun h => kept (by
    rw [Bool.and_eq_true, (s.predictor k).holding_iff, beq_iff_eq] at h
    exact h)

end

end Sys2Proof.Machine

open Sys2Proof Sys2Proof.Machine

/-! ### The statement -/

/-- Settles O30: each miss is followed by a stamp of what it left. -/
theorem predictorMissesAndLosesLock : Obligations.PredictorMissesAndLosesLock := by
  refine ⟨fun x t p => ?_, fun s k t => ?_⟩
  · intro holding late missed
    refine ⟨fun quiet => Predictor.expire_quiet x t quiet _, fun held beyond low => ?below, fun held beyond some_ high => ?last⟩
    case below =>
      obtain ⟨n, limit⟩ : ∃ n, x.missLimit = n + 2 := ⟨x.missLimit - 2, by omega⟩
      unfold Predictor.stamp
      have first : p.expire x t (n + 2) = (p.miss x.missLimit).expire x t (n + 1) := Predictor.expire_late x t ⟨held, beyond⟩ _
      rw [limit, first, Predictor.miss_below low]
      exact (Predictor.expire_fuel x t n missed (by simp only [limit, missed]; omega)).symm
    case last =>
      obtain ⟨n, limit⟩ : ∃ n, x.missLimit = n + 1 := ⟨x.missLimit - 1, by omega⟩
      have first : p.expire x t (n + 1) = (p.miss x.missLimit).expire x t n := Predictor.expire_late x t ⟨held, beyond⟩ _
      unfold Predictor.stamp
      rw [limit, first, Predictor.expire_quiet x t (Predictor.miss_last_quiet x t high), Predictor.miss_last high]
      rfl
  · intro p q b marked lost
    refine ⟨fun ⟨holding, seeking⟩ => ⟨?_, ?_⟩, fun kept => ?_⟩
    · rw [State.stampPredictor_lost holding seeking]
      refine .trans (.trans ?_ (.raise _ _)) (.markDirty _ _)
      rw [s.changePredictor_stamp k t]
      split
      · exact .refl _
      · exact .ofMarks (b.withCause .markLost) _
    · rw [State.stampPredictor_lost holding seeking]
      exact State.dirty_markDirty _ _ _ (.inr rfl)
    · rw [State.stampPredictor_kept kept, s.changePredictor_stamp k t]
      rfl

end

-- ==== Takings of results (R83, R88 to R97) ====
section
/-!
PROOFS. A result at the head of the queue: discarded, or used in its five steps. The order of the open tracks, the track that a
segment matches and the track that is evicted are each told by what they are the least of.
-/
namespace Sys2Proof.Machine

/-! ### Lists in an order -/

theorem sortBy_perm {α : Type} (before : α → α → Bool) (l : List α) : (sortBy before l).Perm l := by
  induction l with
  | nil => exact .refl _
  | cons x rest ih => exact (insertBy_perm before x _).trans (ih.cons x)

section
variable {α : Type} {before : α → α → Bool} {le : α → α → Prop}

/-- An element put in its place keeps the order. -/
theorem insertBy_pairwise (trans : ∀ x y z, le x y → le y z → le x z) (earlier : ∀ x y, before x y = true → le x y)
    (later : ∀ x y, before x y = false → le y x) (x : α) (l : List α) (sorted : l.Pairwise le) :
    (insertBy before x l).Pairwise le := by
  induction l with
  | nil => exact List.pairwise_singleton _ _
  | cons y rest ih =>
    obtain ⟨first, rest_⟩ := List.pairwise_cons.mp sorted
    unfold insertBy
    split
    · next h =>
      refine List.pairwise_cons.mpr ⟨fun z hz => ?_, sorted⟩
      obtain rfl | hz := List.mem_cons.mp hz
      · exact earlier _ _ h
      · exact trans _ _ _ (earlier _ _ h) (first z hz)
    · next h =>
      refine List.pairwise_cons.mpr ⟨fun z hz => ?_, ih rest_⟩
      obtain rfl | hz := List.mem_cons.mp ((insertBy_perm before x rest).mem_iff.mp hz)
      · exact later _ _ (Bool.eq_false_iff.mpr h)
      · exact first z hz

theorem sortBy_pairwise (trans : ∀ x y z, le x y → le y z → le x z) (earlier : ∀ x y, before x y = true → le x y)
    (later : ∀ x y, before x y = false → le y x) (l : List α) : (sortBy before l).Pairwise le := by
  induction l with
  | nil => exact .nil
  | cons x rest ih => exact insertBy_pairwise trans earlier later x _ ih

end

/-- The first of the numbers below n that a test names. -/
theorem find?_finRange {n : Nat} {p : Fin n → Bool} {e : Fin n} (hit : p e = true) (none : ∀ i, i < e → p i = false) :
    (List.finRange n).find? p = some e := by
  refine List.find?_eq_some_iff_getElem.mpr ⟨hit, e.val, by simp, by simp, fun j hj => ?_⟩
  rw [List.getElem_finRange, Bool.not_eq_true']
  exact none _ hj

/-! ### The open tracks in order -/

section
variable (s : State) (test : Track → Bool)

theorem State.mem_openWhere {e : Fin 64} {t : Track} : (e, t) ∈ s.openWhere test ↔ s.track e = some t ∧ test t = true := by
  have entry (i : Fin 64) : ((s.track i).bind fun u => if test u then some (i, u) else none) = some (e, t) ↔
      i = e ∧ s.track e = some t ∧ test t = true := by
    rw [Option.bind_eq_some_iff]
    constructor
    · rintro ⟨u, track, same⟩
      split at same
      · next named =>
        cases same
        exact ⟨rfl, track, named⟩
      · cases same
    · rintro ⟨rfl, track, named⟩
      exact ⟨t, track, if_pos named⟩
  unfold State.openWhere
  rw [(sortBy_perm _ _).mem_iff, List.mem_filterMap]
  simp only [entry, List.mem_finRange, true_and, exists_eq_left]

/-- Each entry holds one track. -/
theorem State.openWhere_nodup : ((s.openWhere test).map (·.1)).Nodup := by
  have entries : (((List.finRange 64).filterMap fun e => (s.track e).bind fun t => if test t then some (e, t) else none).map
      (·.1)).Sublist (List.finRange 64) := by
    generalize List.finRange 64 = l
    induction l with
    | nil => exact .slnil
    | cons e rest ih =>
      rw [List.filterMap_cons]
      split
      · exact ih.cons e
      · next x named =>
        obtain ⟨t, -, same⟩ := Option.bind_eq_some_iff.mp named
        split at same
        · cases same
          exact ih.cons_cons e
        · cases same
  exact ((sortBy_perm _ _).map _).nodup_iff.mpr (entries.nodup (List.nodup_finRange 64))

/-- The order of the open tracks, by first travel and then by number. -/
theorem State.openWhere_sorted : (s.openWhere test).Pairwise fun a b =>
    a.2.firstTravel < b.2.firstTravel ∨ a.2.firstTravel = b.2.firstTravel ∧ a.1 < b.1 := by
  have weak : (s.openWhere test).Pairwise fun a b =>
      a.2.firstTravel < b.2.firstTravel ∨ a.2.firstTravel = b.2.firstTravel ∧ a.1 ≤ b.1 := by
    refine sortBy_pairwise (fun x y z hxy hyz => by omega) (fun x y h => ?_) (fun x y h => ?_) _
    · simp only [Bool.or_eq_true, decide_eq_true_eq, Bool.and_eq_true, beq_iff_eq] at h
      omega
    · rw [Bool.eq_false_iff, ne_eq] at h
      simp only [Bool.or_eq_true, decide_eq_true_eq, Bool.and_eq_true, beq_iff_eq] at h
      omega
  have apart := List.pairwise_map.mp (s.openWhere_nodup test)
  refine (weak.and apart).imp fun ⟨le, ne⟩ => le.imp_right fun ⟨same, low⟩ => ⟨same, lt_of_le_of_ne low ne⟩

theorem State.openWhere_nil (h : ∀ e t, s.track e = some t → test t = false) : s.openWhere test = [] := by
  refine List.eq_nil_iff_forall_not_mem.mpr fun x mem => ?_
  obtain ⟨track, named⟩ := (s.mem_openWhere test).mp mem
  exact Bool.false_ne_true ((h _ _ track).symm.trans named)

end

/-! ### What is taken (R88, R89) -/

section
variable {s : State} {r : LineResult} {rest : List QueueEntry}

/-- TAKING is one event. -/
theorem Answers.taking {b : State} (hl : s.resetLow = false) (h : b.Settles s.opened.take.takePresented) :
    Answers .taking s b := .of_event_settles (f := State.taking) rfl hl h

/-- A queued count one lower. -/
def State.resultLeft (s : State) (k : Fin 16) : State :=
  { s with faces := vset s.faces k { s.face k with queuedCount := (s.face k).queuedCount - 1 } }

theorem State.resultLeft_setFace (s : State) (k : Fin 16) (f : Face → Face) :
    (s.resultLeft k).setFace k (f ((s.resultLeft k).face k)) =
      { s with faces := vset s.faces k (f { s.face k with queuedCount := (s.face k).queuedCount - 1 }) } := by
  have left : (s.resultLeft k).face k = { s.face k with queuedCount := (s.face k).queuedCount - 1 } := vget_vset_same _ _ _
  rw [left]
  unfold State.setFace State.resultLeft
  rw [vset_vset]

theorem State.take_result (h : s.lineQueue = .result r :: rest) : s.take = { s with lineQueue := rest }.takeResult r := by
  unfold State.take
  rw [h]

theorem State.takeResult_discards (h : 0 < (s.face r.face).staleCount ∨ (s.unit (strandOf r.face)).state = .idle ∨
      (s.unit (strandOf r.face)).state = .stopping) :
    s.takeResult r = { s with
      faces := vset s.faces r.face { s.face r.face with
        queuedCount := (s.face r.face).queuedCount - 1, staleCount := (s.face r.face).staleCount - 1,
        tracks := { (s.face r.face).tracks with
          discardedResults := bump (s.face r.face).tracks.discardedResults } } } := by
  have gone : (decide (0 < (s.face r.face).staleCount) || !(s.unit (strandOf r.face)).moving) = true := by
    rw [Bool.or_eq_true, decide_eq_true_eq, Bool.not_eq_true', StrandUnit.moving_false_iff]
    exact h
  unfold State.takeResult
  dsimp only
  rw [if_pos gone]
  exact s.resultLeft_setFace r.face fun y => { y with
    staleCount := y.staleCount - 1
    tracks := { y.tracks with discardedResults := bump y.tracks.discardedResults } }

theorem State.takeResult_uses (fresh : (s.face r.face).staleCount = 0)
    (moving : (s.unit (strandOf r.face)).state = .casting ∨ (s.unit (strandOf r.face)).state = .held) :
    s.takeResult r = (s.resultLeft r.face).useResult r := by
  have kept : ¬(decide (0 < (s.face r.face).staleCount) || !(s.unit (strandOf r.face)).moving) = true := by
    rw [fresh, (StrandUnit.moving_iff _).mpr moving]
    decide
  exact if_neg kept

end

/-! ### The steps of a used result (R90 to R97) -/

theorem State.openSegments_eq (w : Option Window) (r : LineResult) (l : List Segment) (s : State) :
    State.openSegments w r l s = l.foldl (fun u g => u.openSegment w r g) s := by
  induction l generalizing s with
  | nil => rfl
  | cons g rest ih => exact ih _

/-- The segments left by a matching. -/
theorem unmatched_eq {α β : Type} (f : α → Option β) (l : List α) :
    ((l.map fun g => (g, f g)).filter fun m => m.2.isNone).map (·.1) = l.filter fun g => (f g).isNone := by
  rw [List.filter_map, List.map_map]
  exact List.map_id' _

/-- A segment matches a track. -/
theorem Track.matchesSegment_iff (gap stamp : Nat) (g : Segment) (t : Track) : t.matchesSegment gap stamp g = true ↔
    t.spanFirst ≤ g.last + 1 ∧ g.first ≤ t.spanLast + 1 ∧ stamp - t.lastTravel ≤ gap := by
  unfold Track.matchesSegment
  simp only [Bool.and_eq_true, decide_eq_true_eq, and_assoc]

section
variable {w : Option Window} {r : LineResult} {matched : List (Segment × Option (Fin 64))}

/-- The segments that a matching gives a track. -/
def gainedBy (matched : List (Segment × Option (Fin 64))) (e : Fin 64) : List Segment :=
  (matched.filter fun m => m.2 == some e).map (·.1)

theorem State.extendTracks_cons (x : Fin 64 × Track) (rest : List (Fin 64 × Track)) (s : State) :
    State.extendTracks w r matched (x :: rest) s = State.extendTracks w r matched rest
      (if gainedBy matched x.1 = [] then s else s.setTrack x.1 (some (x.2.extend w r (gainedBy matched x.1)))) := by
  rw [State.extendTracks]
  unfold gainedBy
  simp only [List.isEmpty_iff]

/-- Only the Track Table changes. -/
theorem State.extendTracks_same (l : List (Fin 64 × Track)) (s : State) :
    ∃ v, State.extendTracks w r matched l s = { s with tracks := v } := by
  induction l generalizing s with
  | nil => exact ⟨s.tracks, rfl⟩
  | cons x rest ih =>
    rw [State.extendTracks_cons]
    split
    · exact ih s
    · obtain ⟨v, same⟩ := ih (s.setTrack x.1 (some (x.2.extend w r (gainedBy matched x.1))))
      exact ⟨v, same⟩

/-- A track not listed, or given no segment, stays. -/
theorem State.extendTracks_other (l : List (Fin 64 × Track)) (s : State) (e : Fin 64)
    (h : (∀ y, (e, y) ∉ l) ∨ gainedBy matched e = []) : (State.extendTracks w r matched l s).track e = s.track e := by
  induction l generalizing s with
  | nil => rfl
  | cons x rest ih =>
    rw [State.extendTracks_cons, ih _ (h.imp_left fun no y mem => no y (List.mem_cons_of_mem _ mem))]
    split
    · rfl
    · next some_ =>
      rw [State.track_setTrack]
      refine if_neg fun same => ?_
      obtain no | nothing := h
      · exact no x.2 (by rw [← same]; exact List.mem_cons_self)
      · exact some_ (same ▸ nothing)

/-- A track given segments is extended by them. -/
theorem State.extendTracks_gains (l : List (Fin 64 × Track)) (once : (l.map (·.1)).Nodup) (s : State) (e : Fin 64) (y : Track)
    (mem : (e, y) ∈ l) (some_ : gainedBy matched e ≠ []) :
    (State.extendTracks w r matched l s).track e = some (y.extend w r (gainedBy matched e)) := by
  induction l generalizing s with
  | nil => cases mem
  | cons x rest ih =>
    obtain ⟨first, once⟩ := List.nodup_cons.mp once
    rw [State.extendTracks_cons]
    obtain rfl | mem := List.mem_cons.mp mem
    · rw [State.extendTracks_other rest _ e (.inl fun y mem => first (List.mem_map.mpr ⟨(e, y), mem, rfl⟩)), if_neg some_,
        State.track_setTrack, if_pos rfl]
    · exact ih once _ mem

end

/-! ### A track extended (R94) -/

theorem foldl_max_spec (l : List Nat) (a : Nat) :
    (l.foldl max a = a ∨ l.foldl max a ∈ l) ∧ a ≤ l.foldl max a ∧ ∀ b ∈ l, b ≤ l.foldl max a := by
  induction l generalizing a with
  | nil => simp
  | cons c rest ih =>
    obtain ⟨attained, high, upper⟩ := ih (max a c)
    simp only [List.foldl_cons, List.mem_cons, forall_eq_or_imp]
    refine ⟨?_, by omega, by omega, upper⟩
    obtain same | inside := attained
    · obtain left | right : max a c = a ∨ max a c = c := by omega
      · exact .inl (same.trans left)
      · exact .inr (.inl (same.trans right))
    · exact .inr (.inr inside)

/-- The least of a list that begins with a number, from that number and from another. -/
theorem foldl_min_head (a n : Nat) (l : List Nat) : (n :: l).foldl min a = min a ((n :: l).foldl min n) := by
  rw [List.foldl_cons, List.foldl_cons, Nat.min_self, List.foldl_assoc]

theorem foldl_max_head (a n : Nat) (l : List Nat) : (n :: l).foldl max a = max a ((n :: l).foldl max n) := by
  rw [List.foldl_cons, List.foldl_cons, Nat.max_self, List.foldl_assoc]

section
variable (w : Option Window) (r : LineResult) (g : Segment) (rest : List Segment) (t : Track)

/-- The least and the greatest cell of a line's segments. -/
theorem Track.extend_spans : (t.extend w r (g :: rest)).spanFirst = ((g :: rest).map (·.first)).foldl min g.first ∧
    (t.extend w r (g :: rest)).spanLast = ((g :: rest).map (·.last)).foldl max g.last ∧
    (t.extend w r (g :: rest)).minCell = ((g :: rest).map (·.first)).foldl min t.minCell ∧
    (t.extend w r (g :: rest)).maxCell = ((g :: rest).map (·.last)).foldl max t.maxCell ∧
    (t.extend w r (g :: rest)).peak = ((g :: rest).map (·.peak)).foldl max t.peak := by
  simp only [List.foldl_map]
  exact ⟨rfl, rfl, rfl, rfl, rfl⟩

theorem Segment.touchesEdge_iff (y : Window) (g : Segment) : g.touchesEdge y = true ↔
    ∃ c ∈ [y.firstCell, y.firstCell + 1, y.lastCell - 1, y.lastCell], g.first ≤ c ∧ c ≤ g.last := by
  unfold Segment.touchesEdge
  simp only [List.any_eq_true, Bool.and_eq_true, decide_eq_true_eq]

theorem Track.extend_edge : (t.extend w r (g :: rest)).edge = true ↔ t.edge = true ∨ ∃ y, w = some y ∧ ∃ x ∈ g :: rest,
    ∃ c ∈ [y.firstCell, y.firstCell + 1, y.lastCell - 1, y.lastCell], x.first ≤ c ∧ c ≤ x.last := by
  have edge : (t.extend w r (g :: rest)).edge = (t.edge || (g :: rest).any fun x => w.any fun y => x.touchesEdge y) := rfl
  rw [edge, Bool.or_eq_true, List.any_eq_true]
  refine or_congr_right ?_
  simp only [Option.any_eq_true, Segment.touchesEdge_iff]
  constructor
  · rintro ⟨x, mem, y, window, contact⟩
    exact ⟨y, window, x, mem, contact⟩
  · rintro ⟨y, window, x, mem, contact⟩
    exact ⟨x, mem, y, window, contact⟩

end

end Sys2Proof.Machine

open Sys2Proof Sys2Proof.Machine

/-! ### The statements -/

/-- Settles O31: nothing is presented, so the discard is all. -/
theorem takingDiscardsStaleResults : Obligations.TakingDiscardsStaleResults := by
  intro s r rest low quiet queue gone x
  obtain ⟨reads, writes⟩ := quiet
  refine .taking low ?_
  have left := State.take_result (s := s.opened) queue
  rw [State.takeResult_discards (s := { s.opened with lineQueue := rest }) gone] at left
  rw [State.takePresented_none s.opened.take (by rw [left]; exact reads) (by rw [left]; exact writes), left]
  exact .refl _

/-- Settles O33: the steps of R90 by their lemmas. -/
theorem resultsAgeAndExtendTracks : Obligations.ResultsAgeAndExtendTracks := by
  refine ⟨?use, fun s test => ⟨fun e t => s.mem_openWhere test, s.openWhere_sorted test⟩, ?steps, ?matched, ?extended, ?fields⟩
  case use =>
    intro s r rest low queue fresh moving x o
    refine .taking low ?_
    have left := State.take_result (s := s.opened) queue
    rw [State.takeResult_uses (s := { s.opened with lineQueue := rest }) fresh moving] at left
    rw [left]
    exact .refl _
  case steps =>
    intro s r strand gap aged s2 window mine goesTo s3 s4 n
    have ages : s.ageTracks r = aged := State.closeEntries_eq false _ s
    unfold State.useResult
    dsimp only
    rw [ages, unmatched_eq, State.openSegments_eq]
    simp only [Bool.and_eq_true, Bool.not_eq_true', List.isEmpty_eq_false_iff]
    rfl
  case matched =>
    intro gap stamp l g hit
    have hits (t : Track) : t.matchesSegment gap stamp g = true ↔ hit t := t.matchesSegment_iff gap stamp g
    unfold matchOf
    refine ⟨?_, fun e => ?_⟩
    · simp only [Option.map_eq_none_iff, List.find?_eq_none, hits]
    · simp only [Option.map_eq_some_iff, List.find?_eq_some_iff_append, hits, Bool.not_eq_true', Bool.eq_false_iff, ne_eq]
      constructor
      · rintro ⟨⟨i, t⟩, ⟨named, before, behind, list, none⟩, rfl⟩
        exact ⟨before, t, behind, list, named, none⟩
      · rintro ⟨before, t, behind, list, named, none⟩
        exact ⟨(e, t), ⟨named, before, behind, list, none⟩, rfl⟩
  case extended =>
    intro s w r matched l once gained t
    obtain ⟨v, same⟩ := State.extendTracks_same (w := w) (r := r) (matched := matched) l s
    refine ⟨fun e y => State.extendTracks_gains l once s e y, State.extendTracks_other l s, ?_⟩
    simp only [t, same]
  case fields =>
    intro w r gs t some_ v firsts lasts
    obtain ⟨g, rest, rfl⟩ := List.exists_cons_of_ne_nil some_
    obtain ⟨spanFirst, spanLast, minCell, maxCell, peak⟩ := t.extend_spans w r g rest
    obtain ⟨leastIn, -, least⟩ := foldl_min_spec firsts g.first
    obtain ⟨greatestIn, -, greatest⟩ := foldl_max_spec lasts g.last
    obtain ⟨peakIn, peakLow, peakHigh⟩ := foldl_max_spec ((g :: rest).map (·.peak)) t.peak
    refine ⟨rfl, rfl, rfl, rfl, ⟨?_, ?_⟩, ⟨?_, ?_⟩, ?_, ?_, ⟨?_, ?_, ?_⟩, t.extend_edge w r g rest, rfl, rfl, rfl, rfl, rfl⟩
    · exact fun n mem => spanFirst ▸ least n mem
    · rw [spanFirst]
      exact leastIn.elim (fun same => by rw [same]; exact List.mem_cons_self) id
    · exact fun n mem => spanLast ▸ greatest n mem
    · rw [spanLast]
      exact greatestIn.elim (fun same => by rw [same]; exact List.mem_cons_self) id
    · exact minCell.trans ((foldl_min_head _ _ _).trans (congrArg _ spanFirst.symm))
    · exact maxCell.trans ((foldl_max_head _ _ _).trans (congrArg _ spanLast.symm))
    · exact fun x mem => peak ▸ peakHigh _ (List.mem_map_of_mem mem)
    · exact peak ▸ peakLow
    · refine peakIn.imp (fun same => peak.trans same) fun mem => ?_
      obtain ⟨x, mem, same⟩ := List.mem_map.mp mem
      exact ⟨x, mem, peak.trans same.symm⟩

end

-- ==== Tracks that open (R95 to R97) ====
section
/-!
PROOFS. The entry that a segment opens its track in: the lowest FREE one, or that of the weakest open track.
-/
namespace Sys2Proof.Machine

/-! ### The victim (R96) -/

section
variable (s : State)

/-- The track that is evicted first of those of some entries. -/
structure State.Weakest (s : State) (l : List (Fin 64)) (e : Fin 64) (v : Track) : Prop where
  mem : e ∈ l
  track : s.track e = some v
  least : ∀ i ∈ l, ∀ t, s.track i = some t →
    v.sum < t.sum ∨ v.sum = t.sum ∧ (v.firstTravel < t.firstTravel ∨ v.firstTravel = t.firstTravel ∧ e ≤ i)

/-- One entry more, of a number above the others. -/
theorem State.Weakest.weaker {s : State} {l : List (Fin 64)} {e i : Fin 64} {v t : Track} (h : s.Weakest l e v)
    (above : ∀ j ∈ l, j < i) (ht : s.track i = some t) :
    ∃ x y, s.weaker (some (e, v)) i = some (x, y) ∧ s.Weakest (l ++ [i]) x y := by
  unfold State.weaker
  rw [ht]
  dsimp only
  split
  · next less =>
    simp only [Bool.or_eq_true, decide_eq_true_eq, Bool.and_eq_true, beq_iff_eq] at less
    refine ⟨i, t, rfl, List.mem_append_right _ List.mem_cons_self, ht, fun j hj u hu => ?_⟩
    obtain hj | hj := List.mem_append.mp hj
    · have := h.least j hj u hu
      omega
    · obtain rfl := List.mem_singleton.mp hj
      obtain rfl := Option.some.inj (ht.symm.trans hu)
      exact .inr ⟨rfl, .inr ⟨rfl, le_refl _⟩⟩
  · next less =>
    simp only [Bool.or_eq_true, decide_eq_true_eq, Bool.and_eq_true, beq_iff_eq] at less
    refine ⟨e, v, rfl, List.mem_append_left _ h.mem, h.track, fun j hj u hu => ?_⟩
    obtain hj | hj := List.mem_append.mp hj
    · exact h.least j hj u hu
    · obtain rfl := List.mem_singleton.mp hj
      obtain rfl := Option.some.inj (ht.symm.trans hu)
      have low := above e h.mem
      omega

/-- With every entry OPEN the fold over some of them, from the lowest number, finds the weakest. -/
theorem State.foldl_weaker (full : ∀ i, s.track i ≠ none) (l : List (Fin 64)) (rising : l.Pairwise (· < ·)) (some_ : l ≠ []) :
    ∃ e v, l.foldl s.weaker none = some (e, v) ∧ s.Weakest l e v := by
  induction l using List.reverseRecOn with
  | nil => exact absurd rfl some_
  | append_singleton l i ih =>
    obtain ⟨t, ht⟩ := Option.ne_none_iff_exists'.mp (full i)
    obtain ⟨rising, -, above⟩ := List.pairwise_append.mp rising
    rw [List.foldl_concat]
    by_cases empty : l = []
    · subst empty
      refine ⟨i, t, ?_, List.mem_cons_self, ht, fun j hj u hu => ?_⟩
      · rw [List.foldl_nil]
        unfold State.weaker
        rw [ht]
      · obtain rfl := List.mem_singleton.mp hj
        obtain rfl := Option.some.inj (ht.symm.trans hu)
        exact .inr ⟨rfl, .inr ⟨rfl, le_refl _⟩⟩
    · obtain ⟨e, v, fold, weakest⟩ := ih rising empty
      rw [fold]
      exact weakest.weaker (fun j hj => above j hj i List.mem_cons_self) ht

/-- The victim is the weakest track of all. -/
theorem State.trackVictim_eq (full : ∀ i, s.track i ≠ none) {e : Fin 64} {v : Track} (track : s.track e = some v)
    (least : ∀ i t, s.track i = some t → v.sum < t.sum ∨ v.sum = t.sum ∧
      (v.firstTravel < t.firstTravel ∨ v.firstTravel = t.firstTravel ∧ e ≤ i)) : s.trackVictim = some (e, v) := by
  obtain ⟨x, y, fold, weakest⟩ := s.foldl_weaker full (List.finRange 64) (List.pairwise_lt_finRange 64) (by decide)
  have low := least x y weakest.track
  have high := weakest.least e (List.mem_finRange e) v track
  obtain rfl : x = e := by omega
  obtain rfl := Option.some.inj (weakest.track.symm.trans track)
  exact fold

end

/-! ### A segment's track (R95 to R97) -/

/-- The track of a segment, its fields as R95 gives them. -/
theorem newTrack_eq (w : Option Window) (r : LineResult) (g : Segment) : newTrack w r g =
    { face := r.face, firstTravel := r.stamp, lastTravel := r.stamp, firstRing := r.ringLine, lastRing := r.ringLine
      minCell := g.first, maxCell := g.last, spanFirst := g.first, spanLast := g.last, lines := 1, peak := g.peak
      sum := g.peak
      edge := match w with
        | none => false
        | some y => [y.firstCell, y.firstCell + 1, y.lastCell - 1, y.lastCell].any fun c => g.first ≤ c && c ≤ g.last
      lowConf := r.lowConf, cutSplit := false } := by
  cases w <;> rfl

section
variable {s : State} {w : Option Window} {r : LineResult} {g : Segment} {e : Fin 64}

theorem State.freeTrack_lowest (free : s.track e = none) (lowest : ∀ i, i < e → s.track i ≠ none) : s.freeTrack = some e := by
  refine find?_finRange (by rw [free]; rfl) fun i low => ?_
  rw [Option.isNone_eq_false_iff, Option.isSome_iff_ne_none]
  exact lowest i low

theorem State.freeTrack_none (full : ∀ i, s.track i ≠ none) : s.freeTrack = none := by
  refine List.find?_eq_none.mpr fun i _ => ?_
  rw [Option.isNone_iff_eq_none]
  exact full i

/-- The state with a new track in an entry, but for the mark of its face's block. -/
def State.trackOpened (s : State) (e : Fin 64) (t : Track) : State :=
  { s with
    tracks := vset s.tracks e { isOpen := true, fields := t }
    faces := vset s.faces t.face
      { s.face t.face with tracks := { (s.face t.face).tracks with
          openTracks := (s.face t.face).tracks.openTracks + 1, opened := bump (s.face t.face).tracks.opened } } }

theorem State.openTrack_eq (s : State) (e : Fin 64) (t : Track) : s.openTrack e t = (s.trackOpened e t).markFace t.face := rfl

theorem State.openSegment_free (free : s.track e = none) (lowest : ∀ i, i < e → s.track i ≠ none) :
    s.openSegment w r g = (s.trackOpened e (newTrack w r g)).markFace r.face := by
  unfold State.openSegment
  dsimp only
  rw [State.freeTrack_lowest free lowest]
  exact s.openTrack_eq e (newTrack w r g)

variable {v : Track} (full : ∀ i, s.track i ≠ none) (victim : s.trackVictim = some (e, v))
include full victim

theorem State.openSegment_evicts (weak : v.sum < g.peak) : s.openSegment w r g =
    ((s.closeEntry e true false).setTrackCounts v.face { ((s.closeEntry e true false).face v.face).tracks with
      evicted := bump ((s.closeEntry e true false).face v.face).tracks.evicted }).openTrack e (newTrack w r g) := by
  unfold State.openSegment
  dsimp only
  rw [State.freeTrack_none full, victim]
  exact if_pos weak

theorem State.openSegment_drops (strong : g.peak ≤ v.sum) : s.openSegment w r g =
    ((s.setTrackCounts r.face { (s.face r.face).tracks with
      droppedSegments := bump (s.face r.face).tracks.droppedSegments }).raise .trackLimit).markFace r.face := by
  unfold State.openSegment
  dsimp only
  rw [State.freeTrack_none full, victim]
  exact if_neg (Nat.not_lt.mpr strong)

end

/-! ### A result of a face without tracks -/

section
variable {s : State}

/-- A stamp leaves a predictor that holds no rhythm. -/
theorem State.stampPredictor_quiet {k : Fin 4} {t : Nat}
    (quiet : (s.predictor k).state = .off ∨ (s.predictor k).state = .seeking) : s.stampPredictor k t = s := by
  have still : ¬((s.predictor k).state = .locked ∨ (s.predictor k).state = .coasting) := by
    obtain off | seeking := quiet
    · rw [off]
      exact fun h => h.elim nofun nofun
    · rw [seeking]
      exact fun h => h.elim nofun nofun
  have same : (s.predictor k).stamp (s.settings k) t = s.predictor k :=
    Predictor.expire_quiet _ _ (fun late => still late.1) _
  rw [State.stampPredictor_kept fun lost => still lost.1, s.changePredictor_stamp k t, if_pos same, same]
  have strands : vset s.strands k { s.strand k with predictor := s.predictor k } = s.strands := vset_vget _ _
  unfold State.setPredictor State.setStrand
  rw [strands]

/-- A track opened in an entry, with the GAP of its result counted, told at once. -/
theorem State.trackOpened_marked (s : State) (e : Fin 64) (t : Track) (gap : Bool) :
    State.Marked
      { s with
        tracks := vset s.tracks e { isOpen := true, fields := t }
        faces := vset s.faces t.face
          { s.face t.face with tracks := { (s.face t.face).tracks with
              openTracks := (s.face t.face).tracks.openTracks + 1, opened := bump (s.face t.face).tracks.opened
              gapResults := if gap then bump (s.face t.face).tracks.gapResults else (s.face t.face).tracks.gapResults } } }
      (let o := (s.trackOpened e t).markFace t.face
       if gap then o.setTrackCounts t.face { (o.face t.face).tracks with gapResults := bump (o.face t.face).tracks.gapResults }
       else o) := by
  cases gap
  · exact .markDirty _ _
  · have face : ((s.trackOpened e t).markFace t.face).face t.face = { s.face t.face with
        tracks := { (s.face t.face).tracks with
          openTracks := (s.face t.face).tracks.openTracks + 1, opened := bump (s.face t.face).tracks.opened } } :=
      vget_vset_same _ _ _
    refine ⟨((s.trackOpened e t).markFace t.face).marks, ?_⟩
    dsimp only
    rw [if_pos rfl]
    unfold State.setTrackCounts
    rw [face]
    unfold State.setFace State.trackOpened State.markFace State.markDirty State.setMark
    simp only [vset_vset]
    rfl

/-- Such a result of one segment opens a track, and its GAP is counted. -/
theorem State.useResult_opens {r : LineResult} {g : Segment} (only : r.segments = [g])
    (bare : ∀ i t, s.track i = some t → t.face ≠ r.face)
    (quiet : (s.predictor (strandOf r.face)).state = .off ∨ (s.predictor (strandOf r.face)).state = .seeking) :
    s.useResult r =
      let o := s.openSegment ((s.feeding r.face).map s.window) r g
      if r.gap then o.setTrackCounts r.face { (o.face r.face).tracks with gapResults := bump (o.face r.face).tracks.gapResults }
      else o := by
  have mine : s.openWhere (fun t => t.face == r.face) = [] :=
    s.openWhere_nil _ fun e t track => beq_eq_false_iff_ne.mpr (bare e t track)
  have old : s.openWhere (fun t => t.face == r.face && t.lastTravel + (s.settings (strandOf r.face)).gap < r.stamp) = [] :=
    s.openWhere_nil _ fun e t track => by rw [beq_eq_false_iff_ne.mpr (bare e t track), Bool.false_and]
  have aged : s.ageTracks r = s := by
    unfold State.ageTracks
    dsimp only
    rw [old]
    rfl
  unfold State.useResult
  dsimp only
  rw [aged, State.stampPredictor_quiet quiet, mine, only]
  simp only [List.isEmpty_cons, Bool.not_false, Bool.and_true]
  rfl

end

end Sys2Proof.Machine

open Sys2Proof Sys2Proof.Machine

/-! ### The statement -/

/-- Settles O32: the lowest FREE entry, or the victim's. -/
theorem takingOpensATrack : Obligations.TakingOpensATrack := by
  refine ⟨?first, ?free, ?full⟩
  case first =>
    intro s r g rest e low quiet queue only fresh moving bare calm free lowest x edge
    obtain ⟨reads, writes⟩ := quiet
    refine .taking low ?_
    have left := State.take_result (s := s.opened) queue
    rw [State.takeResult_uses (s := { s.opened with lineQueue := rest }) fresh moving] at left
    obtain ⟨o, ho⟩ : ∃ o, o = State.resultLeft { s.opened with lineQueue := rest } r.face := ⟨_, rfl⟩
    have free_ : o.track e = none := by rw [ho]; exact free
    have lowest_ : ∀ i, i < e → o.track i ≠ none := by rw [ho]; exact lowest
    have bare_ : ∀ i t, o.track i = some t → t.face ≠ r.face := by rw [ho]; exact bare
    have calm_ : (o.predictor (strandOf r.face)).state = .off ∨ (o.predictor (strandOf r.face)).state = .seeking := by
      rw [ho]; exact calm
    have face : o.face r.face = { x with queuedCount := x.queuedCount - 1 } := ho ▸ vget_vset_same _ _ _
    have track : newTrack ((s.feeding r.face).map s.window) r g =
        { face := r.face, firstTravel := r.stamp, lastTravel := r.stamp, firstRing := r.ringLine, lastRing := r.ringLine
          minCell := g.first, maxCell := g.last, spanFirst := g.first, spanLast := g.last, lines := 1, peak := g.peak
          sum := g.peak, edge := edge, lowConf := r.lowConf, cutSplit := false } := by
      rw [newTrack_eq]
      simp only [edge]
      cases s.feeding r.face <;> rfl
    have window : (o.feeding r.face).map o.window = (s.feeding r.face).map s.window := by rw [ho]; rfl
    rw [← ho, o.useResult_opens only bare_ calm_, State.openSegment_free free_ lowest_, window] at left
    have opened := o.trackOpened_marked e (newTrack ((s.feeding r.face).map s.window) r g) r.gap
    have marked : State.Marked _ s.opened.take := left ▸ opened
    obtain ⟨m, taken⟩ := marked
    rw [State.takePresented_none s.opened.take (by rw [taken, ho]; exact reads) (by rw [taken, ho]; exact writes), taken]
    refine .trans ?_ (.ofMarks _ m)
    rw [show (newTrack ((s.feeding r.face).map s.window) r g).face = r.face from rfl, face, track]
    subst ho
    unfold State.resultLeft
    dsimp only
    rw [vset_vset]
    exact .refl _
  case free =>
    intro s w r g e free lowest x edge t
    have track : newTrack w r g = t := newTrack_eq w r g
    refine ⟨track, ?_⟩
    rw [State.openSegment_free free lowest, track]
    rfl
  case full =>
    intro s w r g e v full track least
    have victim := s.trackVictim_eq full track least
    refine ⟨fun weak => ?_, fun strong => ?_⟩
    · rw [State.openSegment_evicts full victim weak]
      rfl
    · intro x
      rw [State.openSegment_drops full victim strong]
      exact ⟨.trans (.raise _ _) (.markDirty _ _), State.dirty_markDirty _ _ _ (.inr rfl)⟩

end

-- ==== Closes of tracks and boundaries (R100 to R110, R127, R141) ====
section
/-!
PROOFS. The class of a track by the rows of R107 and what each class hands on; then the boundary markers that close and split
tracks.
-/
namespace Sys2Proof.Machine

/-! ### The finding key (R127) -/

theorem flagBit_toNat (f : Bool) (n : Nat) : flagBit f n = f.toNat * 2 ^ n := by
  cases f
  · exact (Nat.zero_mul _).symm
  · exact (Nat.one_mul _).symm

theorem decide_toNat_eq_one (f : Bool) : decide (f.toNat = 1) = f := by
  cases f <;> rfl

/-- A bit of the number that a word of 16 bits holds. -/
theorem getLsbD_ofNat_16 {n i : Nat} (f : Bool) (hi : i < 16) (h : n / 2 ^ i % 2 = f.toNat) :
    (BitVec.ofNat 16 n).getLsbD i = f := by
  rw [BitVec.getLsbD_ofNat, decide_eq_true hi, Bool.true_and, Nat.testBit_eq_decide_div_mod_eq, h, decide_toNat_eq_one]

section
variable (c : FindingClass) (severity : Nat) (k f : Fin 4) (low evicted interrupted split inWindow : Bool)

theorem FindingClass.code_bounds : 1 ≤ c.code ∧ c.code ≤ 4 := by
  cases c <;> decide

/-- The key's parts lie side by side. -/
theorem findingKey_parts (small : severity ≤ 3) :
    let key := findingKey c severity k f low evicted interrupted split inWindow
    key.toNat % 8 = c.code ∧ key.toNat / 8 % 4 = severity ∧ key.toNat / 32 % 4 = k.val ∧ key.toNat / 128 % 4 = f.val ∧
      key.getLsbD 9 = low ∧ key.getLsbD 10 = evicted ∧ key.getLsbD 11 = interrupted ∧ key.getLsbD 12 = split ∧
      key.getLsbD 13 = inWindow ∧ key.getLsbD 14 = false ∧ key.getLsbD 15 = false := by
  intro key
  obtain ⟨-, code⟩ := c.code_bounds
  have flag (b : Bool) : b.toNat ≤ 1 := b.toNat_le
  have flags := And.intro (flag low) (And.intro (flag evicted) (And.intro (flag interrupted) (And.intro (flag split)
    (flag inWindow))))
  have strand := k.isLt
  have face := f.isLt
  simp only [key, findingKey, flagBit_toNat]
  have bit {n i : Nat} (g : Bool) (hi : i < 16) (h : n / 2 ^ i % 2 = g.toNat) := getLsbD_ofNat_16 g hi h
  rw [BitVec.toNat_ofNat]
  refine ⟨by omega, by omega, by omega, by omega, bit _ (by decide) ?_, bit _ (by decide) ?_, bit _ (by decide) ?_,
    bit _ (by decide) ?_, bit _ (by decide) ?_, bit false (by decide) ?_, bit false (by decide) ?_⟩
  case _ | _ | _ | _ | _ => omega
  case _ | _ =>
    rw [Bool.toNat_false]
    omega

end

/-! ### The class of a track (R105 to R108) -/

section
variable {x : StrandSettings} {inWindow : Bool} {t : Track}

/-- The conditions of R107's rows. -/
def Track.cornerRow (x : StrandSettings) (t : Track) : Prop := t.edge = true ∧ x.longMin ≤ t.length
def Track.longRow (x : StrandSettings) (t : Track) : Prop := x.longMin ≤ t.length ∧ t.extent ≤ x.widthMax
def Track.acrossRow (x : StrandSettings) (t : Track) : Prop := t.length ≤ x.transMaxLen ∧ x.transMinCells ≤ t.extent
def Track.looksLikeMark (x : StrandSettings) (inWindow : Bool) (t : Track) : Prop :=
  x.markSpanCells ≤ t.extent ∨ inWindow = true

/-- The rows in their order. -/
theorem Track.classify_rows : t.classify x inWindow =
    if t.edge = true ∧ x.longMin ≤ t.length then .finding .corner
    else if x.longMin ≤ t.length ∧ t.extent ≤ x.widthMax then .finding .longitudinal
    else if t.length ≤ x.transMaxLen ∧ x.transMinCells ≤ t.extent then
      if x.markSpanCells ≤ t.extent ∨ inWindow = true then
        if x.deepContrast ≤ t.peak then .finding .markRoot else .oscMark
      else .finding .transverse
    else .scale := by
  unfold Track.classify Track.markLike
  simp only [Bool.and_eq_true, Bool.or_eq_true, decide_eq_true_eq]

theorem Track.classify_corner (h : t.cornerRow x) : t.classify x inWindow = .finding .corner :=
  Track.classify_rows.trans (if_pos h)

theorem Track.classify_long (no : ¬t.cornerRow x) (h : t.longRow x) : t.classify x inWindow = .finding .longitudinal :=
  Track.classify_rows.trans ((if_neg no).trans (if_pos h))

/-- The rows below the first two. -/
theorem Track.classify_across (noCorner : ¬t.cornerRow x) (noLong : ¬t.longRow x) (h : t.acrossRow x) :
    t.classify x inWindow =
      if x.markSpanCells ≤ t.extent ∨ inWindow = true then
        if x.deepContrast ≤ t.peak then .finding .markRoot else .oscMark
      else .finding .transverse :=
  Track.classify_rows.trans ((if_neg noCorner).trans ((if_neg noLong).trans (if_pos h)))

theorem Track.classify_scale (noCorner : ¬t.cornerRow x) (noLong : ¬t.longRow x) (no : ¬t.acrossRow x) :
    t.classify x inWindow = .scale :=
  Track.classify_rows.trans ((if_neg noCorner).trans ((if_neg noLong).trans (if_neg no)))

end

/-- A finding's severity (R108). -/
theorem Track.severity_eq (x : StrandSettings) (c : FindingClass) (t : Track) : t.severity x c =
    1 + (if x.sevContrast ≤ t.peak then 1 else 0) +
      (if (((c == .corner || c == .longitudinal) && decide (x.sevLength ≤ t.length)) ||
        ((c == .transverse || c == .markRoot) && decide (x.sevWidth ≤ t.extent))) = true then 1 else 0) := by
  unfold Track.severity
  cases c <;> simp

/-- A finding's record (R110). -/
theorem Track.toFinding_eq (x : StrandSettings) (c : FindingClass) (evicted interrupted inWindow : Bool) (t : Track) {v : Nat}
    (h : t.severity x c = v) : t.toFinding x c evicted interrupted inWindow =
      { strand := strandOf t.face, face := faceIn t.face, cls := c, severity := v, lowConf := t.lowConf, evicted := evicted
        interrupted := interrupted, cutSplit := t.cutSplit, markWindow := inWindow
        key := findingKey c v (strandOf t.face) (faceIn t.face) t.lowConf evicted interrupted t.cutSplit inWindow
        filterHit := none, action := .count, firstTravel := t.firstTravel, length := t.lastTravel - t.firstTravel
        minCell := t.minCell, maxCell := t.maxCell, lines := t.lines, peak := t.peak, evidence := .notAsked, tile := none } := by
  unfold Track.toFinding Track.length
  dsimp only
  rw [h]

/-! ### What a close hands on (R109, R110) -/

section
variable {s : State} {t : Track} {evicted interrupted : Bool}

/-- The mark-window test of a track (R106). -/
def State.trackInWindow (s : State) (t : Track) : Bool :=
  (s.predictor (strandOf t.face)).inWindow (s.settings (strandOf t.face)).tolerance t.firstTravel

/-- The class of a track that closes. -/
def State.classOf (s : State) (t : Track) : CloseClass := t.classify (s.settings (strandOf t.face)) (s.trackInWindow t)

theorem State.handOn_scale (h : s.classOf t = .scale) : s.handOn t evicted interrupted =
    s.setTrackCounts t.face { (s.face t.face).tracks with scales := bump (s.face t.face).tracks.scales } := by
  unfold State.classOf State.trackInWindow at h
  unfold State.handOn
  dsimp only
  rw [h]

/-- An OSC-MARK is counted; a full-width one is observed. -/
theorem State.handOn_oscMark (h : s.classOf t = .oscMark) : s.handOn t evicted interrupted =
    let c := s.setTrackCounts t.face { (s.face t.face).tracks with oscMarks := bump (s.face t.face).tracks.oscMarks }
    if (s.settings (strandOf t.face)).markSpanCells ≤ t.extent then
      c.changePredictor (strandOf t.face)
        ((s.predictor (strandOf t.face)).observe (s.settings (strandOf t.face)).tolerance t.firstTravel)
    else c := by
  unfold State.classOf State.trackInWindow at h
  unfold State.handOn
  dsimp only
  rw [h]

/-- A finding is counted and handled to its end. -/
theorem State.handOn_finding {c : FindingClass} (h : s.classOf t = .finding c) : s.handOn t evicted interrupted =
    ((s.setTrackCounts t.face { (s.face t.face).tracks with findings := bump (s.face t.face).tracks.findings }).markFace
      t.face).handleFinding
      (t.toFinding (s.settings (strandOf t.face)) c evicted interrupted (s.trackInWindow t))
      { window := (s.feeding t.face).getD 0, firstRing := t.firstRing, lastRing := t.lastRing
        lastTravel := t.lastTravel } := by
  have row := h
  unfold State.classOf State.trackInWindow at h
  unfold State.handOn
  dsimp only
  rw [h]
  rfl

theorem State.closeEntry_open {e : Fin 64} (track : s.track e = some t) : s.closeEntry e evicted interrupted =
    (((s.handOn t evicted interrupted).setTrack e none).setTrackCounts t.face
      { ((s.handOn t evicted interrupted).face t.face).tracks with
        openTracks := ((s.handOn t evicted interrupted).face t.face).tracks.openTracks - 1 }).markFace t.face := by
  unfold State.closeEntry
  rw [track]
  rfl

/-- An observation changes what the predictor publishes, and nothing else. -/
theorem Predictor.observe_pulseFields (p : Predictor) (tolerance c : Nat) :
    (p.observe tolerance c).pulseFields = p.pulseFields := by
  unfold Predictor.observe Predictor.observeSeeking Predictor.observeHolding
  dsimp only
  repeat' split
  all_goals rfl

/-- An observation that changes the record marks the strand's block. -/
theorem State.changePredictor_observe (o : State) (k : Fin 4) (tolerance c : Nat) :
    o.changePredictor k ((o.predictor k).observe tolerance c) =
      if (o.predictor k).observe tolerance c = o.predictor k then o.setPredictor k ((o.predictor k).observe tolerance c)
      else (o.setPredictor k ((o.predictor k).observe tolerance c)).markStrand k := by
  unfold State.changePredictor
  by_cases same : (o.predictor k).observe tolerance c = o.predictor k
  · rw [if_pos same, if_pos (by rw [same])]
  · rw [if_neg same, if_neg fun published => same (Predictor.eq_of_published published (Predictor.observe_pulseFields _ _ _))]

end

/-! ### Boundaries (R100 to R102, R141) -/

section
variable (s : State)

theorem State.cutTracks_eq (b : Nat) (l : List (Fin 64 × Track)) (s : State) :
    State.cutTracks b l s = l.foldl (fun v x => v.cutTrack b x.1 x.2) s := by
  induction l generalizing s with
  | nil => rfl
  | cons x rest ih => exact ih _

theorem State.cutTrack_before {b : Nat} (e : Fin 64) {t : Track} (h : t.lastTravel < b) :
    s.cutTrack b e t = s.closeEntry e false false := if_pos h

theorem State.cutTrack_straddles {b : Nat} (e : Fin 64) {t : Track} (h : b ≤ t.lastTravel) :
    s.cutTrack b e t =
      ((s.handOn { t with lastTravel := b - 1, cutSplit := true } false false).setTrack e
        (some { t with firstTravel := b, lines := 1, sum := t.peak, cutSplit := true })).setTrackCounts t.face
        { ((s.handOn { t with lastTravel := b - 1, cutSplit := true } false false).face t.face).tracks with
          splits := bump ((s.handOn { t with lastTravel := b - 1, cutSplit := true } false false).face t.face).tracks.splits } :=
  if_neg (Nat.not_lt.mpr h)

variable {s} {k : Fin 4} {b : Nat} {rest : List QueueEntry}

theorem State.take_boundary (h : s.lineQueue = .boundary k b :: rest) :
    s.take = { s with lineQueue := rest }.takeBoundary k b := by
  unfold State.take
  rw [h]

/-- The tracks of a strand that a boundary names are cut, and the boundary is handed over. -/
def State.boundaryCut (s : State) (k : Fin 4) (b : Nat) : State :=
  ((s.openWhere fun t => strandOf t.face == k && decide (t.firstTravel < b)).foldl (fun v x => v.cutTrack b x.1 x.2)
    s).handBoundary k b

theorem State.takeBoundary_eq (s : State) (k : Fin 4) (b : Nat) : s.takeBoundary k b = (s.queueOwedStop k).boundaryCut k b := by
  unfold State.takeBoundary
  dsimp only
  rw [State.cutTracks_eq]
  rfl

theorem State.queueOwedStop_owed {f : Nat} (h : (s.unit k).stopMarker = some (.owed, f)) : s.queueOwedStop k =
    { s with lineQueue := s.lineQueue ++ [QueueEntry.stop k f] }.setUnit k { s.unit k with stopMarker := some (.queued, f) } := by
  unfold State.queueOwedStop
  dsimp only
  rw [h]

theorem State.queueOwedStop_none (h : ∀ f, (s.unit k).stopMarker ≠ some (.owed, f)) : s.queueOwedStop k = s := by
  unfold State.queueOwedStop
  dsimp only
  split
  · next f owed => exact absurd owed (h f)
  · rfl
  · rfl
  · rfl

theorem State.handBoundary_busy (h : (s.billet k).close ≠ .idle) : s.handBoundary k b = s := if_neg h

theorem State.handBoundary_idle (h : (s.billet k).close = .idle) : s.handBoundary k b = s.startClose k .boundary b := if_pos h

end

end Sys2Proof.Machine

open Sys2Proof Sys2Proof.Machine

/-! ### The statements -/

/-- Settles O34: the class by its row, then what it hands on. -/
theorem closeMeasuresTheTrack : Obligations.CloseMeasuresTheTrack := by
  refine ⟨?key, ?close⟩
  case key =>
    intro c severity k f low evicted interrupted split inWindow small key
    obtain ⟨code, parts⟩ := findingKey_parts c severity k f low evicted interrupted split inWindow small
    exact ⟨code.trans (by cases c <;> rfl), parts⟩
  case close =>
    intro s e t evicted interrupted track k x p y n length extent near inWindow row1 row2 across markLike counted freed u
    have close : u = freed (s.handOn t evicted interrupted) := State.closeEntry_open track
    have notLong (no1 : ¬row1) (no2 : ¬row2) : ¬t.longRow x := fun ⟨long, narrow⟩ => no2 ⟨no1, long, narrow⟩
    refine ⟨close, fun ⟨no1, no2, no⟩ => ?scale, fun ⟨⟨no1, no2, short, wide⟩, mark, shallow⟩ => ?mark, fun c row => ?finding⟩
    case scale =>
      have class_ : s.classOf t = .scale := Track.classify_scale no1 (notLong no1 no2) fun ⟨short, wide⟩ =>
        no ⟨no1, no2, short, wide⟩
      rw [close, State.handOn_scale class_]
      rfl
    case mark =>
      have class_ : s.classOf t = .oscMark := (Track.classify_across no1 (notLong no1 no2) ⟨short, wide⟩).trans
        ((if_pos mark).trans (if_neg (Nat.not_le.mpr shallow)))
      intro c
      have predictor : c.predictor k = p := rfl
      rw [close, State.handOn_oscMark class_]
      refine congrArg freed ?_
      change (if x.markSpanCells ≤ extent then c.changePredictor k ((c.predictor k).observe x.tolerance t.firstTravel) else c) = _
      rw [c.changePredictor_observe k]
      rfl
    case finding =>
      have class_ : s.classOf t = .finding c := by
        obtain ⟨rfl, row⟩ | ⟨rfl, row⟩ | ⟨rfl, ⟨no1, no2, short, wide⟩, no⟩ | ⟨rfl, ⟨no1, no2, short, wide⟩, mark, deep⟩ := row
        · exact Track.classify_corner row
        · exact Track.classify_long row.1 row.2
        · exact (Track.classify_across no1 (notLong no1 no2) ⟨short, wide⟩).trans (if_neg no)
        · exact (Track.classify_across no1 (notLong no1 no2) ⟨short, wide⟩).trans ((if_pos mark).trans (if_pos deep))
      intro big severity
      have severity_ : t.severity x c = severity := t.severity_eq x c
      have window : s.trackInWindow t = inWindow := rfl
      have record := t.toFinding_eq x c evicted interrupted inWindow severity_
      rw [close, State.handOn_finding class_, window]
      refine congrArg freed ?_
      rw [record]
      clear_value severity inWindow
      have counted_ : s.setTrackCounts t.face { (s.face t.face).tracks with findings := bump (s.face t.face).tracks.findings } =
        counted { n with findings := min (n.findings + 1) 0xFFFFFFFF } := rfl
      rw [counted_]

/-- Settles O35: each track by where the boundary falls, the marker by whether a stop is owed. -/
theorem boundarySplitsAStraddlingTrack : Obligations.BoundarySplitsAStraddlingTrack := by
  refine ⟨fun s b e t _ reach => ?straddles, fun s b e t before => s.cutTrack_before e before, ?taking, ?handed⟩
  case straddles =>
    intro h n
    exact s.cutTrack_straddles e reach
  case taking =>
    intro s k b rest low queue u queued cut
    have left := State.take_boundary (s := s.opened) queue
    rw [State.takeBoundary_eq] at left
    refine ⟨fun f owed => .taking low ?_, fun none => .taking low ?_⟩
    · rw [State.queueOwedStop_owed (s := { s.opened with lineQueue := rest }) owed] at left
      rw [left]
      exact .refl _
    · rw [State.queueOwedStop_none (s := { s.opened with lineQueue := rest }) none] at left
      rw [left]
      exact .refl _
  case handed =>
    intro s k b y
    exact ⟨State.handBoundary_busy, State.handBoundary_idle⟩

end

-- ==== Billet closes (R102, R103, R137 to R147) ====
section
/-!
PROOFS. The taking of a Hold List, entry by entry; the end of the taking and the record's two halves; then the markers that start a
close or end the cast.
-/
namespace Sys2Proof.Machine

/-! ### One strand's record, written twice -/

section
variable (s : State) (k : Fin 4)

theorem State.withStrand_withStrand (x y : Strand) : (s.withStrand k x).withStrand k y = s.withStrand k y := by
  unfold State.withStrand
  rw [vset_vset]

@[simp] theorem State.withStrand_strand (x : Strand) : (s.withStrand k x).strand k = x := vget_vset_same _ _ _

theorem State.setUnit_eq (u : StrandUnit) : s.setUnit k u = s.withStrand k { s.strand k with unit := u } := rfl

theorem State.setBillet_eq (b : Billet) : s.setBillet k b = s.withStrand k { s.strand k with billet := b } := rfl

/-- A raised cause leaves the strands. -/
theorem State.raise_strands (c : Cause) : (s.raise c).strands = s.strands := by
  obtain ⟨m, same⟩ := s.raise_eq_withCause c
  rw [same]
  rfl

end

/-! ### Entries that leave the pool (R137, R139, R142) -/

section
variable {s : State} {k : Fin 4} {e : PoolEntry} {rest : List PoolEntry} {given : Bool}

/-- The entry of a Billet Unit's record leaves the pool, and the record becomes what is given. -/
def State.entryTaken (o : State) (k : Fin 4) (y : Billet) (number : Nat) : State :=
  (o.withStrand k { o.strand k with billet := y }).entryFreed k number

theorem State.entryTaken_billet (o : State) (y : Billet) (n : Nat) : (o.entryTaken k y n).billet k = y :=
  congrArg Strand.billet (o.withStrand_strand k _)

/-- A second change of the record replaces the first. -/
theorem State.entryTaken_setBillet (o : State) (y z : Billet) (n : Nat) :
    (o.entryTaken k y n).setBillet k z = o.entryTaken k z n := by
  have strand : (o.entryTaken k y n).strand k = { o.strand k with billet := y } := o.withStrand_strand k _
  have strands : vset (vset o.strands k { o.strand k with billet := y }) k { o.strand k with billet := z } =
      vset o.strands k { o.strand k with billet := z } := vset_vset _ _ _ _
  rw [State.setBillet_eq, strand]
  unfold State.entryTaken State.withStrand
  rw [← strands]
  rfl

theorem State.takeFront_eq (list : (s.billet k).holdList = e :: rest) (f : Working → Working) : s.takeFront k e f =
    s.entryTaken k { s.billet k with holdList := rest, working := f ((s.billet k).working.countEntry e.finding) } e.number := by
  unfold State.takeFront
  dsimp only
  rw [list]
  rfl

theorem State.takeUnpublished_eq (list : (s.billet k).holdList = e :: rest) : s.takeUnpublished k e =
    (State.entryTaken { s with ring := { s.ring with full := bump s.ring.full } } k { s.billet k with
      holdList := rest
      working := { (s.billet k).working.countEntry e.finding with
        unpublished := ((s.billet k).working.countEntry e.finding).unpublished + 1 }
      unpublishedCount := bump (s.billet k).unpublishedCount } e.number).raise .ringFull := by
  unfold State.takeUnpublished
  dsimp only
  rw [State.takeFront_eq list, State.entryTaken_billet, State.entryTaken_setBillet]
  rfl

theorem State.takePublished_eq (list : (s.billet k).holdList = e :: rest) (room : s.own.queue.length < 8) :
    s.takePublished k e =
      State.entryTaken
        { s with
          own := { s.own with queue := s.own.queue ++
            [{ tag := .ringRecord, addr := BitVec.ofNat 40 (s.ringSlot s.ring.put), count := 64
               data := ringRecord e.finding (s.billet k).working.billetNumber (s.billet k).working.head }] }
          ring := { s.ring with
            put := (s.ring.put + 1) % 1024, writesPending := s.ring.writesPending + 1, written := bump s.ring.written } }
        k { s.billet k with
          holdList := rest
          working := { (s.billet k).working.countEntry e.finding with
            published := ((s.billet k).working.countEntry e.finding).published + 1
            firstRing := if ((s.billet k).working.countEntry e.finding).firstRing.isNone then some s.ring.put
              else ((s.billet k).working.countEntry e.finding).firstRing }
          publishedCount := bump (s.billet k).publishedCount } e.number := by
  unfold State.takePublished
  dsimp only
  rw [State.pushOwn_joins s _ room, State.takeFront_eq (by exact list), State.entryTaken_billet, State.entryTaken_setBillet]
  rfl

/-- What is left of a taking after an entry. -/
theorem State.runTaking_rest {u : State} (n : Nat) (list : (u.billet k).holdList = rest) (length : rest.length = n) :
    State.runTaking k (n + 1) given u = u.continueTaking k given := by
  unfold State.continueTaking
  rw [list, length]

/-- The taking meets an entry below the tail. -/
theorem State.continueTaking_below (list : (s.billet k).holdList = e :: rest)
    (below : e.finding.firstTravel < (s.billet k).working.tail) : s.continueTaking k given =
      if e.finding.action = .count then State.runTaking k (rest.length + 1) given (s.takeFront k e id)
      else if s.ringFull then State.runTaking k (rest.length + 1) given (s.takeUnpublished k e)
      else if given || s.placeFree then State.runTaking k (rest.length + 1) false (s.takePublished k e)
      else s.beginWait (.close k) := by
  unfold State.continueTaking
  rw [list, List.length_cons, State.runTaking, list]
  exact if_neg (Nat.not_le.mpr below)

/-- The taking meets none. -/
theorem State.continueTaking_ends
    (none : ∀ e rest, (s.billet k).holdList = e :: rest → (s.billet k).working.tail ≤ e.finding.firstTravel) :
    s.continueTaking k given = s.endTaking k given := by
  unfold State.continueTaking
  rw [State.runTaking]
  cases list : (s.billet k).holdList with
  | nil => rfl
  | cons e rest => exact if_pos (none e rest list)

theorem State.ringFull_iff (s : State) : s.ringFull = true ↔ (s.ring.put + 1024 - s.getIndex) % 1024 = 1023 := beq_iff_eq

/-- A unit that does not wait begins to. -/
theorem State.beginWait_new {w : Waiter} (new : ∀ n, (w, n) ∉ s.own.waiters) :
    s.beginWait w = { s with own := { s.own with waiters := s.own.waiters ++ [(w, s.eventNumber)] } } := by
  refine if_neg fun waits => ?_
  obtain ⟨⟨v, n⟩, mem, same⟩ := (s.waits_iff w).mp waits
  subst same
  exact new n mem

end

/-! ### The end of the taking (R142 to R145) -/

section
variable {s : State} {k : Fin 4} {given : Bool}

/-- The working record when the taking has ended. -/
def Working.atEnd (w : Working) (t : Tally) (l : List GapEntry) : Working :=
  { w with
    unlisted := t.count, overflow := 0 < t.count, worst := max w.worst t.worst, classes := w.classes.plus t.classes
    coverageMask := lostFaces w.head w.tail l, coverageLost := lostFaces w.head w.tail l != 0 }

theorem State.endTaking_eq (s : State) (k : Fin 4) (given : Bool) : s.endTaking k given =
    State.queueHalves k 2 given (s.withStrand k { s.strand k with
      unit := { s.unit k with gaps := keptGaps (s.billet k).working.tail (s.unit k).gaps }
      billet := { s.billet k with
        working := (s.billet k).working.atEnd (s.billet k).tally (s.unit k).gaps, tally := .zero, close := .recording } }) := by
  unfold State.endTaking
  dsimp only
  rw [State.setBillet_eq, State.setUnit_eq, State.withStrand_strand, State.withStrand_withStrand]
  rfl

/-- The next half of the record. -/
def State.nextHalf (s : State) (k : Fin 4) : OwnTxn :=
  if (s.billet k).halvesQueued = 0 then
    { tag := .billetHalf k, addr := BitVec.ofNat 40 (s.bankBase k (s.billet k).published.other), count := 64
      data := billetFirstHalf k (s.billet k).working }
  else
    { tag := .billetHalf k, addr := BitVec.ofNat 40 (s.bankBase k (s.billet k).published.other + 64), count := 64
      data := billetSecondHalf k (s.billet k).working }

/-- The state with that half in the queue. -/
def State.halfQueued (s : State) (k : Fin 4) : State :=
  { s.withStrand k { s.strand k with billet := { s.billet k with halvesQueued := (s.billet k).halvesQueued + 1 } } with
    own := { s.own with queue := s.own.queue ++ [s.nextHalf k] } }

theorem State.queueHalf_eq (room : s.own.queue.length < 8) : s.queueHalf k = s.halfQueued k := by
  unfold State.queueHalf
  dsimp only
  rw [State.pushOwn_joins s _ room]
  rfl

theorem State.queueHalves_done (n : Nat) (done : 2 ≤ (s.billet k).halvesQueued) : State.queueHalves k n given s = s := by
  cases n with
  | zero => rfl
  | succ n => exact if_neg (Nat.not_lt.mpr done)

theorem State.queueHalves_joins (n : Nat) (more : (s.billet k).halvesQueued < 2) (room : s.own.queue.length < 8)
    (place : given = true ∨ s.placeFree = true) :
    State.queueHalves k (n + 1) given s = State.queueHalves k n false (s.halfQueued k) := by
  rw [State.queueHalves, if_pos more, if_pos (Bool.or_eq_true_iff.mpr place), State.queueHalf_eq room]

theorem State.queueHalves_waits (n : Nat) (more : (s.billet k).halvesQueued < 2) (kept : given = false)
    (none : s.placeFree = false) : State.queueHalves k (n + 1) given s = s.beginWait (.close k) := by
  rw [State.queueHalves, if_pos more, kept, none]
  rfl

/-- The address of the bank that is not published (R9, R140). -/
theorem State.bankBase_other (s : State) (k : Fin 4) (b : Bank) :
    s.bankBase k b.other = s.ctlBase + 0x8000 + k.val * 0x200 + (if b = .bankA then 0x100 else 0) := by
  cases b <;> rfl

end

section
variable (s : State) (k : Fin 4)

theorem State.halfQueued_strand : (s.halfQueued k).strand k =
    { s.strand k with billet := { s.billet k with halvesQueued := (s.billet k).halvesQueued + 1 } } := s.withStrand_strand k _

theorem State.halfQueued_billet :
    (s.halfQueued k).billet k = { s.billet k with halvesQueued := (s.billet k).halvesQueued + 1 } :=
  congrArg Strand.billet (s.halfQueued_strand k)

theorem State.halfQueued_own : (s.halfQueued k).own = { s.own with queue := s.own.queue ++ [s.nextHalf k] } := rfl

theorem State.placeFree_iff : s.placeFree = true ↔ s.own.queue.length + s.own.waiters.length < 8 := decide_eq_true_iff

theorem State.nextHalf_second : (s.halfQueued k).nextHalf k =
    { tag := .billetHalf k, addr := BitVec.ofNat 40 (s.bankBase k (s.billet k).published.other + 64), count := 64
      data := billetSecondHalf k (s.billet k).working } := by
  have more : ¬((s.halfQueued k).billet k).halvesQueued = 0 := by
    rw [State.halfQueued_billet]
    exact Nat.succ_ne_zero _
  refine (if_neg more).trans ?_
  rw [State.halfQueued_billet]
  rfl

variable {s k} (start : (s.billet k).halvesQueued = 0)
include start

theorem State.nextHalf_first : s.nextHalf k =
    { tag := .billetHalf k, addr := BitVec.ofNat 40 (s.bankBase k (s.billet k).published.other), count := 64
      data := billetFirstHalf k (s.billet k).working } := if_pos start

/-- Both halves in the queue. -/
theorem State.halfQueued_twice : (s.halfQueued k).halfQueued k =
    { s.withStrand k { s.strand k with billet := { s.billet k with halvesQueued := 2 } } with
      own := { s.own with queue := s.own.queue ++
        [{ tag := .billetHalf k, addr := BitVec.ofNat 40 (s.bankBase k (s.billet k).published.other), count := 64
           data := billetFirstHalf k (s.billet k).working },
         { tag := .billetHalf k, addr := BitVec.ofNat 40 (s.bankBase k (s.billet k).published.other + 64), count := 64
           data := billetSecondHalf k (s.billet k).working }] } } := by
  have outer (t : State) : t.halfQueued k =
      { t.withStrand k { t.strand k with billet := { t.billet k with halvesQueued := (t.billet k).halvesQueued + 1 } } with
        own := { t.own with queue := t.own.queue ++ [t.nextHalf k] } } := rfl
  rw [outer (s.halfQueued k), State.nextHalf_second, State.halfQueued_strand, State.halfQueued_billet,
    State.halfQueued_own, State.nextHalf_first start, start]
  unfold State.halfQueued State.withStrand
  simp only [vset_vset, List.append_assoc, List.cons_append, List.nil_append]

/-- With two places free both halves join. -/
theorem State.queueHalves_both (room : s.own.queue.length + s.own.waiters.length ≤ 6) :
    State.queueHalves k 2 false s = (s.halfQueued k).halfQueued k := by
  have length : (s.halfQueued k).own.queue.length = s.own.queue.length + 1 := by
    rw [State.halfQueued_own]
    exact List.length_append
  have waiters : (s.halfQueued k).own.waiters = s.own.waiters := by rw [State.halfQueued_own]
  have last : ((s.halfQueued k).halfQueued k).billet k = { s.billet k with halvesQueued := (s.billet k).halvesQueued + 1 + 1 } := by
    rw [State.halfQueued_billet, State.halfQueued_billet]
  rw [State.queueHalves_joins 1 (by rw [start]; decide) (by omega) (.inr (s.placeFree_iff.mpr (by omega))),
    State.queueHalves_joins 0 (by rw [State.halfQueued_billet]; exact (by omega : (s.billet k).halvesQueued + 1 < 2)) (by rw [length]; omega)
      (.inr ((s.halfQueued k).placeFree_iff.mpr (by rw [length, waiters]; omega))),
    State.queueHalves_done 0 (by rw [last, start])]

end

end Sys2Proof.Machine

open Sys2Proof Sys2Proof.Machine

/-! ### The statements -/

/-- Settles O37: each entry by its action and the ring, the end by R143 to R145. -/
theorem holdEntriesAreTaken : Obligations.HoldEntriesAreTaken := by
  refine ⟨?entries, ?halves, ?ends⟩
  case entries =>
    intro s k given e rest y w f full counted taken list below
    have step := State.continueTaking_below (given := given) list below
    refine ⟨fun count => ?count, fun other ringFull => ?unpublished, fun other room place free => ?published,
      fun other room kept none new => ?waits⟩
    case count =>
      rw [step, if_pos count, State.takeFront_eq list]
      exact State.runTaking_rest _ (congrArg Billet.holdList (s.entryTaken_billet _ _)) rfl
    case unpublished =>
      rw [step, if_neg other, if_pos (s.ringFull_iff.mpr ringFull), State.takeUnpublished_eq list]
      refine State.runTaking_rest _ ?_ rfl
      unfold State.billet State.strand
      rw [State.raise_strands]
      exact congrArg Billet.holdList (State.entryTaken_billet _ _ _)
    case published =>
      rw [step, if_neg other, if_neg (room ∘ s.ringFull_iff.mp), if_pos (Bool.or_eq_true_iff.mpr free),
        State.takePublished_eq list place]
      refine (State.runTaking_rest _ (congrArg Billet.holdList (State.entryTaken_billet _ _ _)) rfl).trans ?_
      simp only [Option.isNone_iff_eq_none]
      rfl
    case waits =>
      rw [step, if_neg other, if_neg (room ∘ s.ringFull_iff.mp), kept, none]
      exact State.beginWait_new new
  case halves =>
    intro s k n given y bank
    refine ⟨State.queueHalves_done _, fun more room place => ?_, fun more kept none new => ?_⟩
    · rw [State.queueHalves_joins n more room place]
      unfold State.halfQueued State.nextHalf
      rw [State.bankBase_other]
    · rw [State.queueHalves_waits n more kept none]
      exact State.beginWait_new new
  case ends =>
    intro s k given y w u lost none
    rw [State.continueTaking_ends none, State.endTaking_eq]
    rfl

end

-- ==== Markers that start a close or end the cast (R50, R60, R100 to R103, R141, R147) ====
section
/-!
PROOFS. A marker is taken: the stop marker owed joins the queue, the tracks below it are told, and the Billet Unit starts a close or
ends the cast.
-/
namespace Sys2Proof.Machine

/-! ### The start of a close (R141) -/

/-- The working record that a close starts with. -/
def State.firstWorking (s : State) (k : Fin 4) (kind : CloseKind) (tail : Nat) : Working :=
  { billetNumber := (s.unit k).billetNumber, first := (s.billet k).firstPending, final := kind = .final, overflow := false
    coverageLost := false, head := (s.billet k).headBoundary, tail := tail, length := tail - (s.billet k).headBoundary
    classes := .zero, severity3 := 0, worst := 0, published := 0, unpublished := 0, unlisted := 0, evidenceRequested := 0
    coverageMask := 0, firstRing := none }

theorem State.startClose_eq (s : State) (k : Fin 4) (kind : CloseKind) (tail : Nat) : s.startClose k kind tail =
    (s.withStrand k { s.strand k with billet := { s.billet k with
      close := .taking, inHand := some (kind, tail), halvesQueued := 0, halvesAnswered := 0
      working := s.firstWorking k kind tail } }).continueTaking k false := rfl

/-- The working record of a close of an empty Hold List, at its end. -/
def State.emptyWorking (s : State) (k : Fin 4) (kind : CloseKind) (tail : Nat) : Working :=
  { billetNumber := (s.unit k).billetNumber, first := (s.billet k).firstPending, final := kind = .final
    overflow := 0 < (s.billet k).tally.count
    coverageLost := lostFaces (s.billet k).headBoundary tail (s.unit k).gaps != 0, head := (s.billet k).headBoundary
    tail := tail, length := tail - (s.billet k).headBoundary, classes := (s.billet k).tally.classes, severity3 := 0
    worst := (s.billet k).tally.worst, published := 0, unpublished := 0, unlisted := (s.billet k).tally.count
    evidenceRequested := 0, coverageMask := lostFaces (s.billet k).headBoundary tail (s.unit k).gaps, firstRing := none }

theorem State.firstWorking_atEnd (s : State) (k : Fin 4) (kind : CloseKind) (tail : Nat) :
    (s.firstWorking k kind tail).atEnd (s.billet k).tally (s.unit k).gaps = s.emptyWorking k kind tail := by
  have classes (x : ClassCounts) : ClassCounts.zero.plus x = x := by
    unfold ClassCounts.plus ClassCounts.zero
    simp
  unfold Working.atEnd State.firstWorking State.emptyWorking
  dsimp only
  rw [classes, Nat.zero_max]

/-- With an empty Hold List and two places free, a close queues its record at once. -/
theorem State.startClose_empty {s : State} {k : Fin 4} (kind : CloseKind) (tail : Nat) (empty : (s.billet k).holdList = [])
    (room : s.own.queue.length + s.own.waiters.length ≤ 6) : s.startClose k kind tail =
      { s.withStrand k { s.strand k with
          unit := { s.unit k with gaps := keptGaps tail (s.unit k).gaps }
          billet := { s.billet k with
            working := s.emptyWorking k kind tail, tally := .zero, close := .recording, inHand := some (kind, tail)
            halvesQueued := 2, halvesAnswered := 0 } } with
        own := { s.own with queue := s.own.queue ++
          [{ tag := .billetHalf k, addr := BitVec.ofNat 40 (s.bankBase k (s.billet k).published.other), count := 64
             data := billetFirstHalf k (s.emptyWorking k kind tail) },
           { tag := .billetHalf k, addr := BitVec.ofNat 40 (s.bankBase k (s.billet k).published.other + 64), count := 64
             data := billetSecondHalf k (s.emptyWorking k kind tail) }] } } := by
  obtain ⟨o, ho⟩ : ∃ o, o = s.withStrand k { s.strand k with billet := { s.billet k with
      close := .taking, inHand := some (kind, tail), halvesQueued := 0, halvesAnswered := 0
      working := s.firstWorking k kind tail } } := ⟨_, rfl⟩
  have strand : o.strand k = { s.strand k with billet := { s.billet k with
      close := .taking, inHand := some (kind, tail), halvesQueued := 0, halvesAnswered := 0
      working := s.firstWorking k kind tail } } := ho ▸ s.withStrand_strand k _
  have billet : o.billet k = { s.billet k with
      close := .taking, inHand := some (kind, tail), halvesQueued := 0, halvesAnswered := 0
      working := s.firstWorking k kind tail } := congrArg Strand.billet strand
  have unit : o.unit k = s.unit k := by
    unfold State.unit
    rw [strand]
  have none : ∀ e rest, (o.billet k).holdList = e :: rest → (o.billet k).working.tail ≤ e.finding.firstTravel := by
    intro e rest list
    rw [billet] at list
    exact nomatch empty.symm.trans list
  obtain ⟨p, hp⟩ : ∃ p, p = s.withStrand k { s.strand k with
      unit := { s.unit k with gaps := keptGaps tail (s.unit k).gaps }
      billet := { s.billet k with
        working := s.emptyWorking k kind tail, tally := .zero, close := .recording, inHand := some (kind, tail)
        halvesQueued := 0, halvesAnswered := 0 } } := ⟨_, rfl⟩
  have ended : s.startClose k kind tail = State.queueHalves k 2 false p := by
    rw [State.startClose_eq, ← ho, State.continueTaking_ends none, State.endTaking_eq, unit, billet, strand, ho,
      State.withStrand_withStrand, hp, ← State.firstWorking_atEnd]
    rfl
  have strand_ : p.strand k = _ := hp ▸ s.withStrand_strand k _
  have billet_ : p.billet k = { s.billet k with
        working := s.emptyWorking k kind tail, tally := .zero, close := .recording, inHand := some (kind, tail)
        halvesQueued := 0, halvesAnswered := 0 } := congrArg Strand.billet strand_
  have start : (p.billet k).halvesQueued = 0 := by rw [billet_]
  have own : p.own = s.own := by rw [hp]; rfl
  have bank (b : Bank) : p.bankBase k b = s.bankBase k b := by rw [hp]; rfl
  rw [ended, State.queueHalves_both start (by rw [own]; exact room), State.halfQueued_twice start, billet_, strand_, own, bank, hp,
    State.withStrand_withStrand]

/-! ### The stop owed (R60) -/

/-- The stop marker of a strand after its boundary marker is taken. -/
def stopQueued : Option (StopPhase × Nat) → Option (StopPhase × Nat)
  | some (.owed, f) => some (.queued, f)
  | some (.queued, f) => some (.queued, f)
  | some (.taken, f) => some (.taken, f)
  | none => none

/-- What joins the line queue then. -/
def stopJoins (k : Fin 4) : Option (StopPhase × Nat) → List QueueEntry
  | some (.owed, f) => [.stop k f]
  | some (.queued, _) | some (.taken, _) | none => []

theorem State.queueOwedStop_eq (s : State) (k : Fin 4) : s.queueOwedStop k =
    { s.withStrand k { s.strand k with unit := { s.unit k with stopMarker := stopQueued (s.unit k).stopMarker } } with
      lineQueue := s.lineQueue ++ stopJoins k (s.unit k).stopMarker } := by
  have stays (m : Option (StopPhase × Nat)) (h : (s.unit k).stopMarker = m) :
      { s.withStrand k { s.strand k with unit := { s.unit k with stopMarker := m } } with
        lineQueue := s.lineQueue ++ [] } = s := by
    have same : vset s.strands k { s.strand k with unit := { s.unit k with stopMarker := m } } = s.strands := by
      rw [← h]
      exact vset_vget _ _
    unfold State.withStrand
    rw [same, List.append_nil]
  unfold State.queueOwedStop
  dsimp only
  split
  · next f owed =>
    rw [owed]
    rfl
  · next f queued =>
    rw [queued]
    exact (stays _ queued).symm
  · next f taken =>
    rw [taken]
    exact (stays _ taken).symm
  · next none_ =>
    rw [none_]
    exact (stays _ none_).symm

/-! ### The end of the cast (R50, R147) -/

section
variable {s : State} {k : Fin 4}

/-- A slot that no longer refers to an entry of a list. -/
def State.forgotten (s : State) (l : List PoolEntry) (i : Fin 4) : Slot :=
  if ∃ e ∈ l, (s.slot i).poolEntry = some e.number then { s.slot i with poolEntry := none } else s.slot i

theorem State.entryFreed_slot (s : State) (k : Fin 4) (n : Nat) (i : Fin 4) : (s.entryFreed k n).slot i =
    if (s.slot i).poolEntry = some n then { s.slot i with poolEntry := none } else s.slot i := vget_vtab _ _

theorem State.forgotten_cons (s : State) (k : Fin 4) (e : PoolEntry) (l : List PoolEntry) (i : Fin 4) :
    (s.entryFreed k e.number).forgotten l i = s.forgotten (e :: l) i := by
  unfold State.forgotten
  rw [State.entryFreed_slot]
  simp only [List.exists_mem_cons_iff]
  by_cases here : (s.slot i).poolEntry = some e.number
  · simp [here]
  · simp [here]

theorem vtab_vget {α : Type} {n : Nat} (v : Vector α n) : (vtab fun i => vget v i) = v := by
  refine Vector.ext fun i hi => ?_
  exact vget_vtab (fun j => vget v j) ⟨i, hi⟩

theorem State.forgotten_nil (s : State) : vtab (s.forgotten []) = s.evidence.slots := by
  refine Eq.trans (congrArg vtab (funext fun i => if_neg ?_)) (vtab_vget _)
  exact fun ⟨e, mem, _⟩ => nomatch mem

/-- Entries forgotten one after another. -/
theorem State.forgetEntries_marked (k : Fin 4) (l : List PoolEntry) (s : State) :
    State.Marked { s with evidence := { s.evidence with slots := vtab (s.forgotten l) } } (State.forgetEntries k l s) := by
  induction l generalizing s with
  | nil =>
    rw [s.forgotten_nil]
    exact .refl s
  | cons e rest ih =>
    obtain ⟨m, same⟩ := ih (s.entryFreed k e.number)
    have slots : (s.entryFreed k e.number).forgotten rest = s.forgotten (e :: rest) :=
      funext (s.forgotten_cons k e rest)
    rw [slots] at same
    exact ⟨m, same⟩

/-- Each entry marks block 1. -/
theorem State.forgetEntries_dirty (k : Fin 4) (l : List PoolEntry) (s : State) (h : (s.mark 1).dirty = true ∨ l ≠ []) :
    ((State.forgetEntries k l s).mark 1).dirty = true := by
  induction l generalizing s with
  | nil => exact h.resolve_right (absurd rfl)
  | cons e rest ih => exact ih _ (.inl (State.dirty_markDirty _ _ _ (.inl (State.dirty_markDirty _ _ _ (.inr rfl)))))

/-- The state in which the cast has ended without a record (R50, R147). -/
def State.castEnded (s : State) (k : Fin 4) : State :=
  { s.withStrand k
      { unit := { s.unit k with state := .idle, stopMarker := none, pendingBoundary := none }
        predictor := { s.predictor k with state := .off, candidate := none }
        billet := { s.billet k with
          holdList := [], tally := .zero, close := .idle, inHand := none
          discardedHolds := bumpBy ((s.billet k).holdList.length + (s.billet k).tally.count) (s.billet k).discardedHolds } }
    with evidence := { s.evidence with slots := vtab (s.forgotten (s.billet k).holdList) } }

/-- The close ends and the strand becomes IDLE. -/
theorem State.endFinal_eq {o : State} {k : Fin 4} {x : Strand} (strand : o.strand k = x) :
    (o.setBillet k { o.billet k with tally := .zero, close := .idle, inHand := none }).endFinal k =
      (o.withStrand k
        { unit := { x.unit with state := .idle, stopMarker := none, pendingBoundary := none }
          predictor := { x.predictor with state := .off, candidate := none }
          billet := { x.billet with tally := .zero, close := .idle, inHand := none } }).markStrand k := by
  subst strand
  unfold State.endFinal
  dsimp only
  rw [State.setBillet_eq, State.withStrand_strand]
  exact congrArg (State.markStrand · k) (o.withStrand_withStrand k _ _)

theorem State.finalWithoutRecord_marked (s : State) (k : Fin 4) : (s.castEnded k).Marked (s.finalWithoutRecord k) := by
  obtain ⟨o, ho⟩ : ∃ o, o = s.discardHolds k (s.billet k).tally.count := ⟨_, rfl⟩
  obtain ⟨y, hy⟩ : ∃ y, y = { s.billet k with
      holdList := []
      discardedHolds := bumpBy ((s.billet k).holdList.length + (s.billet k).tally.count) (s.billet k).discardedHolds } :=
    ⟨_, rfl⟩
  obtain ⟨m, same⟩ := State.forgetEntries_marked k (s.billet k).holdList (s.setBillet k y)
  have discarded : o = { s.setBillet k y with
      evidence := { s.evidence with slots := vtab (s.forgotten (s.billet k).holdList) }, marks := m } := by
    rw [ho]
    unfold State.discardHolds
    dsimp only
    rw [← hy, same]
    rfl
  have strand : o.strand k = { s.strand k with billet := y } := by
    rw [discarded]
    exact s.withStrand_strand k _
  have ends : s.finalWithoutRecord k = _ := (ho ▸ rfl : s.finalWithoutRecord k =
    (o.setBillet k { o.billet k with tally := .zero, close := .idle, inHand := none }).endFinal k).trans
      (State.endFinal_eq strand)
  have strands := s.withStrand_withStrand k { s.strand k with billet := y }
  rw [ends, discarded, hy]
  refine .trans ⟨m, ?_⟩ (.markDirty _ _)
  unfold State.castEnded State.setBillet State.setStrand State.withStrand
  rw [vset_vset]
  rfl

theorem State.finalWithoutRecord_dirty (s : State) (k : Fin 4) :
    ((s.finalWithoutRecord k).mark (strandBlock k)).dirty = true := State.dirty_markDirty _ _ _ (.inr rfl)

theorem State.finalWithoutRecord_dirty_pool (s : State) (k : Fin 4) (some_ : (s.billet k).holdList ≠ []) :
    ((s.finalWithoutRecord k).mark 1).dirty = true := by
  have pool := State.forgetEntries_dirty k (s.billet k).holdList
    (s.setBillet k { s.billet k with
      holdList := []
      discardedHolds := bumpBy ((s.billet k).holdList.length + (s.billet k).tally.count) (s.billet k).discardedHolds })
    (.inr some_)
  exact State.dirty_markDirty _ _ _ (.inl pool)

end

/-! ### The stop marker taken (R103) -/

section
variable {s : State} {k : Fin 4} {f : Nat} {rest : List QueueEntry}

theorem State.take_stop (h : s.lineQueue = .stop k f :: rest) : s.take = { s with lineQueue := rest }.takeStop k f := by
  unfold State.take
  rw [h]

theorem State.takeStop_eq (s : State) (k : Fin 4) (f : Nat) : s.takeStop k f =
    let o := s.withStrand k { s.strand k with unit := { s.unit k with stopMarker := some (.taken, f) } }
    ((o.openWhere fun t => strandOf t.face == k).foldl (fun v x => v.closeEntry x.1 false true) o).handFinal k f := by
  unfold State.takeStop
  dsimp only
  rw [State.closeEntries_eq]
  rfl

theorem State.handFinal_busy (h : (s.billet k).close ≠ .idle) : s.handFinal k f =
    s.withStrand k { s.strand k with billet := { s.billet k with finalWaiting := some f } } := if_neg h

theorem State.handFinal_idle (h : (s.billet k).close = .idle) : s.handFinal k f = s.startFinal k f := if_pos h

theorem State.startFinal_above (h : (s.billet k).headBoundary < f) : s.startFinal k f = s.startClose k .final f :=
  if_neg (Nat.not_le.mpr h)

theorem State.startFinal_ends (h : f ≤ (s.billet k).headBoundary) : s.startFinal k f = s.finalWithoutRecord k := if_pos h

end

end Sys2Proof.Machine

open Sys2Proof Sys2Proof.Machine

/-! ### The statements -/

/-- Settles O36: no track is told, and the close runs to its record. -/
theorem takingABoundaryStartsTheClose : Obligations.TakingABoundaryStartsTheClose := by
  intro s k b rest u y lost w bank marker joins low quiet queue above idle empty room
  obtain ⟨reads, writes⟩ := quiet
  refine .taking low ?_
  have left := State.take_boundary (s := s.opened) queue
  rw [State.takeBoundary_eq, State.queueOwedStop_eq] at left
  obtain ⟨q, hq⟩ : ∃ q, q = { State.withStrand s.opened k { s.strand k with unit := { u with stopMarker := marker } } with
    lineQueue := rest ++ joins } := ⟨_, rfl⟩
  have taken : s.opened.take = q.boundaryCut k b := left.trans (hq ▸ rfl)
  have strand : q.strand k = { s.strand k with unit := { u with stopMarker := marker } } :=
    hq ▸ s.opened.withStrand_strand k _
  have unit : q.unit k = { u with stopMarker := marker } := (congrArg Strand.unit strand :)
  have billet : q.billet k = y := (congrArg Strand.billet strand :)
  have own : q.own = s.own := by rw [hq]; rfl
  have bare : (q.openWhere fun t => strandOf t.face == k && decide (t.firstTravel < b)) = [] := by
    refine q.openWhere_nil _ fun i t track => ?_
    have track_ : s.track i = some t := by rw [hq] at track; exact track
    by_cases mine : strandOf t.face = k
    · rw [decide_eq_false (Nat.not_lt.mpr (above i t track_ mine)), Bool.and_false]
    · rw [beq_eq_false_iff_ne.mpr mine, Bool.false_and]
  have cut : q.boundaryCut k b = q.startClose k .boundary b := by
    unfold State.boundaryCut
    rw [bare, List.foldl_nil]
    exact State.handBoundary_idle (by rw [billet]; exact idle)
  have working : q.emptyWorking k .boundary b = w := by
    unfold State.emptyWorking
    rw [billet, unit]
    rfl
  have address (a : Bank) : q.bankBase k a = s.bankBase k a := by rw [hq]; rfl
  rw [cut, State.startClose_empty .boundary b (by rw [billet]; exact empty) (by rw [own]; exact room), working, billet, unit,
    strand, own, address, hq] at taken
  rw [State.takePresented_none s.opened.take (by rw [taken]; exact reads) (by rw [taken]; exact writes), taken]
  have strands (x : Strand) : vset (vset s.strands k { s.strand k with unit := { u with stopMarker := marker } }) k x =
      vset s.strands k x := vset_vset _ _ _ _
  unfold State.withStrand
  dsimp only [State.opened_strands]
  rw [strands]
  exact .refl _

/-- Settles O38: the stop marker by what the Billet Unit has in hand. -/
theorem takingAStopEndsTheCast : Obligations.TakingAStopEndsTheCast := by
  refine ⟨?taking, ?handed, ?bare⟩
  case taking =>
    intro s k f rest low queue o c
    have left := State.take_stop (s := s.opened) queue
    rw [State.takeStop_eq] at left
    refine .taking low ?_
    rw [left]
    exact .refl _
  case handed =>
    intro s k f y
    refine ⟨State.handFinal_busy, fun idle above => ⟨State.handFinal_idle idle, ?_⟩, fun idle below =>
      ⟨State.handFinal_idle idle, ?_, ?_, fun some_ => ?_⟩⟩
    · rw [State.startFinal_above above, State.startClose_eq]
      rfl
    · rw [State.startFinal_ends below]
      exact (s.finalWithoutRecord_marked k).settles
    · rw [State.startFinal_ends below]
      exact s.finalWithoutRecord_dirty k
    · rw [State.startFinal_ends below]
      exact s.finalWithoutRecord_dirty_pool k some_
  case bare =>
    intro s k f rest u y lost w bank low quiet queue others
    obtain ⟨reads, writes⟩ := quiet
    have left := State.take_stop (s := s.opened) queue
    rw [State.takeStop_eq] at left
    obtain ⟨q, hq⟩ : ∃ q, q = { State.withStrand s.opened k { s.strand k with unit := { u with stopMarker := some (.taken, f) } }
      with lineQueue := rest } := ⟨_, rfl⟩
    have strand : q.strand k = { s.strand k with unit := { u with stopMarker := some (.taken, f) } } :=
      hq ▸ s.opened.withStrand_strand k _
    have unit : q.unit k = { u with stopMarker := some (.taken, f) } := (congrArg Strand.unit strand :)
    have billet : q.billet k = y := (congrArg Strand.billet strand :)
    have own : q.own = s.own := by rw [hq]; rfl
    have bare : (q.openWhere fun t => strandOf t.face == k) = [] := by
      refine q.openWhere_nil _ fun i t track => beq_eq_false_iff_ne.mpr (others i t ?_)
      rw [hq] at track
      exact track
    have taken : s.opened.take = q.handFinal k f := by
      refine left.trans ?_
      have fold := congrArg (fun l : List (Fin 64 × Track) => (l.foldl (fun v x => v.closeEntry x.1 false true) q).handFinal k f) bare
      rw [hq] at fold ⊢
      exact fold
    have strands (x : Strand) : vset (vset s.strands k { s.strand k with unit := { u with stopMarker := some (.taken, f) } }) k x =
        vset s.strands k x := vset_vset _ _ _ _
    have frame {b : State} (marked : b.Marked s.opened.take) (reads_ : b.path = s.opened.path) : Answers .taking s b := by
      obtain ⟨m, same⟩ := marked
      refine .taking low ?_
      rw [State.takePresented_none s.opened.take (by rw [same]; exact reads_ ▸ reads) (by rw [same]; exact reads_ ▸ writes), same]
      exact .ofMarks _ m
    refine ⟨fun idle empty below => frame ?_ rfl, fun idle empty above room => frame ?_ rfl, fun busy => frame ?_ rfl⟩
    · have ended := q.finalWithoutRecord_marked k
      rw [taken, State.handFinal_idle (by rw [billet]; exact idle), State.startFinal_ends (by rw [billet]; exact below)]
      have same : q.castEnded k = { q.withStrand k
          { s.strand k with
            unit := { u with state := .idle, stopMarker := none, pendingBoundary := none }
            predictor := { s.predictor k with state := .off, candidate := none }
            billet := { y with
              tally := .zero, close := .idle, inHand := none
              discardedHolds := min (y.discardedHolds + y.tally.count) 0xFFFFFFFF } } with evidence := q.evidence } := by
        have list : y.holdList = [] := empty
        have predictor : q.predictor k = s.predictor k := (congrArg Strand.predictor strand :)
        unfold State.castEnded
        rw [billet, list, State.forgotten_nil, unit, predictor, List.length_nil, Nat.zero_add, ← list]
        rfl
      rw [same] at ended
      refine (show State.Marked _ _ from ?_).trans ended
      rw [hq]
      unfold State.withStrand
      dsimp only [State.opened_strands]
      rw [strands]
      exact .refl _
    · rw [taken, State.handFinal_idle (by rw [billet]; exact idle), State.startFinal_above (by rw [billet]; exact above)]
      have working : q.emptyWorking k .final f = w := by
        unfold State.emptyWorking
        rw [billet, unit]
        rfl
      have address (a : Bank) : q.bankBase k a = s.bankBase k a := by rw [hq]; rfl
      rw [State.startClose_empty .final f (by rw [billet]; exact empty) (by rw [own]; exact room), working, billet, unit,
        strand, own, address, hq]
      unfold State.withStrand
      dsimp only [State.opened_strands]
      rw [strands]
      exact .refl _
    · rw [taken, State.handFinal_busy (by rw [billet]; exact busy), billet, strand, hq]
      unfold State.withStrand
      dsimp only [State.opened_strands]
      rw [strands]
      exact .refl _

end

-- ==== Responses to the part's own writes (R16, R139, R140, R146, R163, R172, R180, R183) ====
section
/-!
PROOFS. The oldest own write is answered by the unit of its kind: what the answer leaves, but for the marks, and what it does to the
marks of a block.
-/
namespace Sys2Proof.Machine

namespace State.Marked

variable {a b : State} {k : Fin 4}

theorem withCause (h : a.Marked b) (c : Cause) : (a.withCause c).Marked (b.withCause c) := by
  obtain ⟨m, rfl⟩ := h
  exact ⟨m, rfl⟩

theorem withStrand (h : a.Marked b) (x : Strand) : (a.withStrand k x).Marked (b.withStrand k x) := by
  obtain ⟨m, rfl⟩ := h
  exact ⟨m, rfl⟩

end State.Marked

/-! ### The write taken off -/

section
variable {s : State} {x : OwnTxn} {rest : List OwnTxn}

/-- The state without its oldest own write. -/
def State.writeOff (s : State) (rest : List OwnTxn) : State := { s with own := { s.own with writes := rest } }

theorem State.answerWrite_head {kind : OwnTag → Bool} (writes : s.own.writes = x :: rest) (named : kind x.tag = true) :
    s.answerWrite kind = some (x, s.writeOff rest) := by
  unfold State.answerWrite
  rw [writes]
  exact if_pos named

/-- MEMERR at an ERROR response, but for the mark of block 0. -/
def State.withMemErr (s : State) : Resp → State
  | .okay => s
  | .error => s.withCause .memErr

theorem State.memErrOf_marked (s : State) (resp : Resp) : (s.withMemErr resp).Marked (s.memErrOf resp) := by
  cases resp
  · exact .refl s
  · exact .raise s .memErr

theorem State.ownWriteAnswered_eq (s : State) (rest : List OwnTxn) (resp : Resp) :
    s.ownWriteAnswered rest resp = (s.opened.writeOff rest).withMemErr resp := by
  cases resp <;> rfl

/-- The answer to a block's write with a part state given, as a statement writes it. -/
theorem State.answered_eq (s : State) (rest : List OwnTxn) (resp : Resp) (b : Fin 22) (p : PartState) :
    (if b = 0 then
      { s.ownWriteAnswered rest resp with
        part := p
        causes := { (s.ownWriteAnswered rest resp).causes with
          posted := s.causes.posted ||| ((s.ownWriteAnswered rest resp).causes.pending &&& s.causes.carried), carried := 0 } }
    else { s.ownWriteAnswered rest resp with part := p }) =
      { (if b = 0 then ((s.opened.writeOff rest).withMemErr resp).postCauses else (s.opened.writeOff rest).withMemErr resp) with
        part := p } := by
  by_cases zero : b = 0
  · rw [if_pos zero, if_pos zero]
    cases resp <;> rfl
  · rw [if_neg zero, if_neg zero]
    cases resp <;> rfl

/-- The end of an event that takes place. -/
theorem State.event_eq (s : State) (f : State → State) (low : s.resetLow = false) :
    s.event f = (f s.opened).settled s.opened := by
  unfold State.event
  rw [low]
  rfl

end

/-! ### What stays of a block's marks -/

/-- No block's marks differ but in the dirty mark. -/
def State.MarksKept (a b : State) : Prop := ∀ j, b.mark j = { a.mark j with dirty := (b.mark j).dirty }

namespace State.MarksKept

variable {a b c : State}

theorem refl (s : State) : s.MarksKept s := fun _ => rfl

theorem trans (h : a.MarksKept b) (g : b.MarksKept c) : a.MarksKept c := fun j => by
  have first := h j
  have second := g j
  rw [first] at second
  exact second

theorem markDirty (s : State) (b : Fin 22) : s.MarksKept (s.markDirty b) := fun j => by
  rw [State.markDirty_mark]
  split
  · next same => rw [same]
  · rfl

theorem raise (s : State) (c : Cause) : s.MarksKept (s.raise c) := by
  unfold State.raise
  split
  · exact refl s
  · exact markDirty _ 0

theorem memErrOf (s : State) (resp : Resp) : s.MarksKept (s.memErrOf resp) := by
  cases resp
  · exact refl s
  · exact raise s .memErr

theorem checkRun (s : State) : s.MarksKept s.checkRun := by
  unfold State.checkRun
  split
  · exact markDirty { s with part := .run } 0
  · exact refl s

theorem firstWrite (h : a.MarksKept b) (j : Fin 22) : (b.mark j).firstWrite = (a.mark j).firstWrite := by rw [h j]

theorem outstanding (h : a.MarksKept b) (j : Fin 22) : (b.mark j).outstanding = (a.mark j).outstanding := by rw [h j]

theorem sequence (h : a.MarksKept b) (j : Fin 22) : (b.mark j).sequence = (a.mark j).sequence := by rw [h j]

end State.MarksKept

/-! ### The entry to RUN (R172) -/

section
variable {s : State}

/-- Nothing of STARTING is left unanswered. -/
def State.allAnswered (s : State) : Prop := s.part = .starting ∧ s.zeroUnanswered = 0 ∧ ∀ b, (s.mark b).firstWrite = false

theorem State.allAnswered_iff (s : State) : s.allAnswered ↔
    s.part = .starting ∧ s.zeroUnanswered = 0 ∧ ((List.finRange 22).all fun b => !(s.mark b).firstWrite) = true := by
  unfold State.allAnswered
  simp only [List.all_eq_true, List.mem_finRange, true_implies, Bool.not_eq_true']

theorem State.checkRun_runs (h : s.allAnswered) : s.checkRun = { s with part := .run }.markDirty 0 := if_pos (s.allAnswered_iff.mp h)

theorem State.checkRun_stays (h : ¬s.allAnswered) : s.checkRun = s := if_neg (h ∘ s.allAnswered_iff.mpr)

end

/-! ### A block's write is answered (R180, R183) -/

section
variable (s : State) (b : Fin 22) (resp : Resp)

/-- The block's write is no longer outstanding, and MEMERR is pending at an ERROR. -/
def State.markAnswered : State := (s.setMark b (s.mark b).atResponse).memErrOf resp

theorem State.blockAnswered_eq : s.blockAnswered b resp =
    (if b = 0 then (s.markAnswered b resp).postCauses else s.markAnswered b resp).checkRun := rfl

/-- The same with the causes posted that a block-0 write carried. -/
def State.markPosted : State := if b = 0 then (s.markAnswered b resp).postCauses else s.markAnswered b resp

theorem State.markPosted_marks : (s.markPosted b resp).marks = (s.markAnswered b resp).marks := by
  unfold State.markPosted
  split <;> rfl

theorem State.markAnswered_kept : (s.setMark b (s.mark b).atResponse).MarksKept (s.markPosted b resp) := by
  have kept := State.MarksKept.memErrOf (s.setMark b (s.mark b).atResponse) resp
  intro j
  have same : (s.markPosted b resp).mark j = (s.markAnswered b resp).mark j := by
    unfold State.mark
    rw [s.markPosted_marks]
  rw [same]
  exact kept j

/-- The first-write mark of a block after the answer. -/
theorem State.markPosted_firstWrite (j : Fin 22) : ((s.markPosted b resp).mark j).firstWrite =
    if j = b then (s.mark b).firstWrite && !(s.mark b).sinceStarting else (s.mark j).firstWrite := by
  rw [(s.markAnswered_kept b resp).firstWrite j, State.mark_setMark]
  by_cases same : j = b
  · rw [if_pos same, if_pos same.symm]
    rfl
  · rw [if_neg same, if_neg (Ne.symm same)]

theorem State.markPosted_outstanding : ((s.markPosted b resp).mark b).outstanding = false := by
  rw [(s.markAnswered_kept b resp).outstanding b, State.mark_setMark, if_pos rfl]
  rfl

theorem State.markPosted_sequence (j : Fin 22) : ((s.markPosted b resp).mark j).sequence = (s.mark j).sequence := by
  rw [(s.markAnswered_kept b resp).sequence j, State.mark_setMark]
  split
  · next same =>
    rw [← same]
    rfl
  · rfl

/-- What the answer leaves, but for the marks. -/
theorem State.markPosted_marked : State.Marked
    (if b = 0 then (s.withMemErr resp).postCauses else s.withMemErr resp) (s.markPosted b resp) := by
  obtain ⟨m, same⟩ := (s.setMark b (s.mark b).atResponse).memErrOf_marked resp
  have answered : s.markAnswered b resp = { s.withMemErr resp with marks := m } := by
    unfold State.markAnswered
    rw [same]
    cases resp <;> rfl
  unfold State.markPosted
  rw [answered]
  split
  · exact ⟨m, rfl⟩
  · exact ⟨m, rfl⟩

end

theorem State.statusResponse_head {s : State} {x : OwnTxn} {rest : List OwnTxn} {b : Fin 22} (resp : Resp)
    (writes : s.own.writes = x :: rest) (tag : x.tag = .statusBlock b) :
    s.statusResponse resp = (s.writeOff rest).blockAnswered b resp := by
  unfold State.statusResponse
  rw [State.answerWrite_head writes (by rw [tag]; rfl)]
  dsimp only
  rw [tag]
  rfl

/-! ### The other kinds of write (R139, R140, R146, R162, R163) -/

section
variable {s : State} {x : OwnTxn} {rest : List OwnTxn} {resp : Resp}

theorem State.zeroResponse_head (writes : s.own.writes = x :: rest) (tag : x.tag = .zeroRecord) :
    s.zeroResponse resp = ({ s.writeOff rest with zeroUnanswered := s.zeroUnanswered - 1 }.memErrOf resp).checkRun := by
  unfold State.zeroResponse
  rw [State.answerWrite_head writes (by rw [tag]; rfl)]
  rfl

theorem State.ringResponse_head (writes : s.own.writes = x :: rest) (tag : x.tag = .ringRecord) :
    s.ringResponse resp =
      { s.writeOff rest with ring := { s.ring with writesPending := s.ring.writesPending - 1 } }.memErrOf resp := by
  unfold State.ringResponse
  rw [State.answerWrite_head writes (by rw [tag]; rfl)]
  rfl

theorem State.rowResponse_head (writes : s.own.writes = x :: rest) (tag : x.tag = .tileRow) :
    s.rowResponse resp = (s.writeOff rest).memErrOf resp := by
  unfold State.rowResponse
  rw [State.answerWrite_head writes (by rw [tag]; rfl)]

theorem State.headerResponse_head {i : Fin 4} (writes : s.own.writes = x :: rest) (tag : x.tag = .tileHeader i) :
    s.headerResponse resp = ((s.writeOff rest).memErrOf resp).headerAnswered i := by
  unfold State.headerResponse
  rw [State.answerWrite_head writes (by rw [tag]; rfl)]
  dsimp only
  rw [tag]
  rfl

theorem State.halfResponse_head {k : Fin 4} (writes : s.own.writes = x :: rest) (tag : x.tag = .billetHalf k) :
    s.halfResponse resp = ((s.writeOff rest).memErrOf resp).halfAnswered k := by
  unfold State.halfResponse
  rw [State.answerWrite_head writes (by rw [tag]; rfl)]
  dsimp only
  rw [tag]
  rfl

end

/-! ### A header's answer (R163, R168) -/

/-- The outcome counted at the answer: an abort only where it was not counted before (log 14). -/
theorem Evidence.countHeader_some (e : Evidence) (o : Outcome) : e.countHeader (some o) = { e with
    complete := if o = Outcome.complete then bump e.complete else e.complete
    clipped := if o = Outcome.clipped then bump e.clipped else e.clipped
    overrun := if o = Outcome.overrun ∧ (!Config.countsAtAbort) = true then bump e.overrun else e.overrun
    aborted := if o = Outcome.aborted ∧ (!Config.countsAtAbort) = true then bump e.aborted else e.aborted } := by
  cases o with
  | complete => simp [Evidence.countHeader, Evidence.countOutcome]
  | clipped => simp [Evidence.countHeader, Evidence.countOutcome]
  | overrun => cases early : Config.countsAtAbort <;> simp [Evidence.countHeader, Evidence.countOutcome, early]
  | aborted => cases early : Config.countsAtAbort <;> simp [Evidence.countHeader, Evidence.countOutcome, early]

/-- The evidence with the tile READY, the slot IDLE and the outcome counted. -/
def Evidence.headerDone (e : Evidence) (i : Fin 4) (tile : Fin 64) (o : Option Outcome) : Evidence :=
  Evidence.countHeader { e with tiles := vset e.tiles tile .ready, slots := vset e.slots i Slot.cleared } o

/-- The state with it, EVIDENCE raised and block 1 marked. -/
def State.headerDone (s : State) (i : Fin 4) : State :=
  (State.raise { s with evidence := s.evidence.headerDone i (s.slot i).tile (s.slot i).outcome } .evidence).markDirty 1

theorem State.headerAnswered_eq (s : State) (i : Fin 4) :
    s.headerAnswered i = if (s.slot i).state = .copying then (s.headerDone i).chooseCopy else s.headerDone i := rfl

/-! ### The flip (R59, R146, R147) -/

section
variable {s : State} {k : Fin 4}

/-- The strand's record after the flip of a close, but for the end of the cast. -/
def Strand.closed (x : Strand) (kind : CloseKind) : Strand :=
  { x with unit := x.unit.closeEnded kind, billet := x.billet.flip }

theorem State.halfAnswered_first (first : (s.billet k).halvesAnswered = 0) : s.halfAnswered k =
    s.withStrand k { s.strand k with billet := { s.billet k with halvesAnswered := 1 } } := by
  unfold State.halfAnswered
  dsimp only
  rw [first]
  rfl

/-- The second half: the strand flips, and what the kind of the close makes of it follows. -/
theorem State.halfAnswered_second {kind : CloseKind} {tail : Nat} (second : (s.billet k).halvesAnswered = 1)
    (hand : (s.billet k).inHand = some (kind, tail)) : s.halfAnswered k =
      let o := ((s.withStrand k ((s.strand k).closed kind)).raise .billet).markStrand k
      match kind with
      | .final => (o.discardHolds k 0).endFinal k
      | .boundary => o.startWaitingFinal k := by
  obtain ⟨o, ho⟩ : ∃ o, o = s.setBillet k { s.billet k with halvesAnswered := 2 } := ⟨_, rfl⟩
  have strand : o.strand k = { s.strand k with billet := { s.billet k with halvesAnswered := 2 } } :=
    ho ▸ s.withStrand_strand k _
  have kind_ : ((o.billet k).inHand.map (·.1)).getD .boundary = kind := by
    unfold State.billet
    rw [strand]
    exact congrArg (fun h : Option (CloseKind × Nat) => (h.map (·.1)).getD .boundary) hand
  have flips : s.halfAnswered k = o.flip k := by
    rw [ho]
    unfold State.halfAnswered
    dsimp only
    rw [second]
    rfl
  have closed : (o.setBillet k (o.billet k).flip).setUnit k ((o.unit k).closeEnded kind) =
      s.withStrand k ((s.strand k).closed kind) := by
    have last : (o.setBillet k (o.billet k).flip).strand k = { o.strand k with billet := (o.billet k).flip } :=
      o.withStrand_strand k _
    have setBack : o.setBillet k (o.billet k).flip = s.withStrand k { o.strand k with billet := (o.billet k).flip } := by
      rw [State.setBillet_eq, ho]
      exact s.withStrand_withStrand k _ _
    rw [State.setUnit_eq, last, setBack, State.withStrand_withStrand]
    unfold State.billet State.unit
    rw [strand]
    rfl
  rw [flips]
  unfold State.flip
  dsimp only
  rw [kind_, closed]
  cases kind <;> rfl

theorem State.startWaitingFinal_none (none : (s.billet k).finalWaiting = none) : s.startWaitingFinal k = s := by
  unfold State.startWaitingFinal
  rw [none]

theorem State.startWaitingFinal_some {f : Nat} (waits : (s.billet k).finalWaiting = some f) : s.startWaitingFinal k =
    (s.withStrand k { s.strand k with billet := { s.billet k with finalWaiting := none } }).startFinal k f := by
  unfold State.startWaitingFinal
  rw [waits]
  rfl

/-- A strand written, with a cause raised and the strand's block marked. -/
theorem State.strandRaised_strand (s : State) (k : Fin 4) (x : Strand) (c : Cause) :
    (((s.withStrand k x).raise c).markStrand k).strand k = x := by
  have strands : (((s.withStrand k x).raise c).markStrand k).strands = (s.withStrand k x).strands := State.raise_strands _ c
  unfold State.strand
  rw [strands]
  exact s.withStrand_strand k x

theorem State.endFinal_marked {a o : State} {k : Fin 4} {x : Strand} (marked : a.Marked o) (strand : o.strand k = x) :
    (a.withStrand k
      { unit := { x.unit with state := .idle, stopMarker := none, pendingBoundary := none }
        predictor := { x.predictor with state := .off, candidate := none }
        billet := x.billet }).Marked (o.endFinal k) := by
  subst strand
  exact (marked.withStrand _).trans (.markDirty _ _)

/-- The discards at the end of a cast (R137, R147). -/
theorem State.discardHolds_marked (s : State) (k : Fin 4) (more : Nat) : State.Marked
    { s.withStrand k { s.strand k with billet := { s.billet k with
        holdList := [], discardedHolds := bumpBy ((s.billet k).holdList.length + more) (s.billet k).discardedHolds } } with
      evidence := { s.evidence with slots := vtab (s.forgotten (s.billet k).holdList) } } (s.discardHolds k more) :=
  State.forgetEntries_marked k (s.billet k).holdList (s.setBillet k { s.billet k with
    holdList := [], discardedHolds := bumpBy ((s.billet k).holdList.length + more) (s.billet k).discardedHolds })

end

/-! ### IRQ_N (R183) -/

theorem exists_cause {i : Nat} (h : i < 14) : ∃ c : Cause, c.bit = i := by
  have all : ∀ j : Fin 14, ∃ c : Cause, c.bit = j.val := by
    intro j
    fin_cases j
    exacts [⟨.billet, rfl⟩, ⟨.finding, rfl⟩, ⟨.ringFull, rfl⟩, ⟨.head, rfl⟩, ⟨.view, rfl⟩, ⟨.held, rfl⟩, ⟨.cutReject, rfl⟩,
      ⟨.glitch, rfl⟩, ⟨.markLost, rfl⟩, ⟨.evidence, rfl⟩, ⟨.tilesOut, rfl⟩, ⟨.trackLimit, rfl⟩, ⟨.refused, rfl⟩, ⟨.memErr, rfl⟩]
  exact all ⟨i, h⟩

theorem Cause.bit_lt (c : Cause) : c.bit < 14 := by
  cases c <;> decide

theorem State.irqAsserted_iff (s : State) : s.irqAsserted = true ↔ ∃ c : Cause,
    s.causes.pending.getLsbD c.bit = true ∧ s.causes.posted.getLsbD c.bit = true ∧ s.causeMask.getLsbD c.bit = true := by
  have bits (i : Nat) (h : i < 14) : (s.causes.pending &&& s.causes.posted &&& s.causeMask.setWidth 14).getLsbD i = true ↔
      s.causes.pending.getLsbD i = true ∧ s.causes.posted.getLsbD i = true ∧ s.causeMask.getLsbD i = true := by
    simp only [BitVec.getLsbD_and, BitVec.getLsbD_setWidth, h, decide_true, Bool.true_and, Bool.and_eq_true, and_assoc]
  unfold State.irqAsserted
  rw [bne_iff_ne]
  constructor
  · intro some_
    by_contra none
    refine some_ (BitVec.eq_of_getLsbD_eq fun i hi => ?_)
    obtain ⟨c, rfl⟩ := exists_cause hi
    rw [BitVec.ofNat_eq_ofNat, BitVec.getLsbD_zero, Bool.eq_false_iff]
    exact fun set => none ⟨c, (bits _ hi).mp set⟩
  · rintro ⟨c, set⟩ zero
    have bit := (bits _ c.bit_lt).mpr set
    rw [zero, BitVec.ofNat_eq_ofNat, BitVec.getLsbD_zero] at bit
    exact Bool.false_ne_true bit

end Sys2Proof.Machine

open Sys2Proof Sys2Proof.Machine

/-! ### The statements -/

/-- Settles O39: the answer's own marks, and then the end of the event. -/
theorem postingDrivesIrq : Obligations.PostingDrivesIrq := by
  refine ⟨?answer, State.irqAsserted_iff⟩
  intro s resp x rest b low writes tag first runs a
  obtain ⟨o, ho⟩ : ∃ o, o = (s.opened.writeOff rest).markPosted b resp := ⟨_, rfl⟩
  have response : s.opened.statusResponse resp = o.checkRun := by
    rw [ho]
    exact State.statusResponse_head (s := s.opened) resp writes tag
  have firsts (j : Fin 22) : (o.mark j).firstWrite = first j := ho ▸ State.markPosted_firstWrite _ b resp j
  have sequences (j : Fin 22) : (o.mark j).sequence = (s.mark j).sequence := ho ▸ State.markPosted_sequence _ b resp j
  have answered : (o.mark b).outstanding = false := ho ▸ State.markPosted_outstanding _ b resp
  obtain ⟨m, marked⟩ := (s.opened.writeOff rest).markPosted_marked b resp
  rw [← ho] at marked
  have part : o.part = s.part := by
    rw [marked]
    split <;> cases resp <;> rfl
  have zeros : o.zeroUnanswered = s.zeroUnanswered := by
    rw [marked]
    split <;> cases resp <;> rfl
  have all : o.allAnswered ↔ runs := by
    unfold State.allAnswered
    simp only [part, zeros, firsts]
    rfl
  have kept := State.MarksKept.checkRun o
  refine ⟨_, rfl, ?_, fun yes => ?_, fun j => ?_, fun out => ?_⟩
  · refine .trans ?_ (s.event_settles (fun t => t.statusResponse resp) low)
    rw [response]
    have posted := s.answered_eq rest resp b
    by_cases yes : runs
    · rw [State.checkRun_runs (all.mpr yes), marked]
      simp only [a, if_pos yes, posted]
      exact .trans (.ofMarks _ m) (.markDirty _ _)
    · rw [State.checkRun_stays (yes ∘ all.mp), marked]
      simp only [a, if_neg yes, posted]
      rw [marked] at part
      rw [← part]
      exact .ofMarks _ m
  · refine s.noted_event (fun t => t.statusResponse resp) 0 low ?_ (.inl ?_)
    · rw [response, kept.sequence]
      exact sequences 0
    · rw [response, State.checkRun_runs (all.mpr yes)]
      exact State.dirty_markDirty _ _ _ (.inr rfl)
  · rw [s.event_eq _ low, State.settled_firstWrite, response, kept.firstWrite]
    exact firsts j
  · rw [s.event_eq _ low, response] at out ⊢
    rw [State.settled_sequence _ _ _ ((kept.outstanding b).trans answered) out, kept.sequence, sequences]

/-- Settles O40: the zero records, and the blocks by the answer to the last of them. -/
theorem partEntersRunWhenAllIsAnswered : Obligations.PartEntersRunWhenAllIsAnswered := by
  refine ⟨?zeros, ?blocks⟩
  case zeros =>
    intro s resp x rest low writes tag
    refine .of_event_settles (f := fun t => t.zeroResponse resp) rfl low ?_
    rw [State.zeroResponse_head (s := s.opened) writes tag]
    have kept := State.MarksKept.memErrOf { s.opened.writeOff rest with zeroUnanswered := s.opened.zeroUnanswered - 1 } resp
    obtain ⟨m, marked⟩ :=
      State.memErrOf_marked { s.opened.writeOff rest with zeroUnanswered := s.opened.zeroUnanswered - 1 } resp
    obtain ⟨o, ho⟩ : ∃ o, o =
      State.memErrOf { s.opened.writeOff rest with zeroUnanswered := s.opened.zeroUnanswered - 1 } resp := ⟨_, rfl⟩
    rw [← ho] at kept marked ⊢
    have part : o.part = s.part := by
      rw [marked]
      cases resp <;> rfl
    have unanswered : o.zeroUnanswered = s.zeroUnanswered - 1 := by
      rw [marked]
      cases resp <;> rfl
    have all : o.allAnswered ↔ s.part = .starting ∧ s.zeroUnanswered ≤ 1 ∧ ∀ b, (s.mark b).firstWrite = false := by
      unfold State.allAnswered
      rw [part, unanswered, Nat.sub_eq_zero_iff_le]
      simp only [kept.firstWrite]
      rfl
    have base (p : PartState) :
        { s.ownWriteAnswered rest resp with zeroUnanswered := s.zeroUnanswered - 1, part := p } =
          { State.withMemErr { s.opened.writeOff rest with zeroUnanswered := s.opened.zeroUnanswered - 1 } resp with
            part := p } := by
      cases resp <;> rfl
    by_cases yes : s.part = .starting ∧ s.zeroUnanswered ≤ 1 ∧ ∀ b, (s.mark b).firstWrite = false
    · rw [if_pos yes, base, State.checkRun_runs (all.mpr yes), marked]
      exact .trans (.ofMarks _ m) (.markDirty _ _)
    · rw [if_neg yes, base, State.checkRun_stays (yes ∘ all.mp), ← part, marked]
      exact .ofMarks _ m
  case blocks =>
    intro s resp x rest b low writes tag starting since others zeros
    obtain ⟨t, exec_, settles, -, -, -⟩ := postingDrivesIrq.1 s resp x rest b low writes tag
    have cleared (j : Fin 22) :
        (if j = b then (s.mark b).firstWrite && !(s.mark b).sinceStarting else (s.mark j).firstWrite) = false := by
      by_cases same : j = b
      · rw [if_pos same, since]
        exact Bool.and_false _
      · rw [if_neg same]
        exact others j same
    have runs := And.intro starting (And.intro zeros cleared)
    refine ⟨t, exec_, ?_, ?_, ?_⟩
    · rw [settles.same]
      dsimp only
      by_cases zero : b = 0
      · rw [if_pos zero]
        exact if_pos runs
      · rw [if_neg zero]
        exact if_pos runs
    · rw [settles.same]
      split <;> cases resp <;> rfl
    · rw [settles.same]
      split <;> cases resp <;> rfl

/-- Settles O41: the half by the count answered, the flip by what the close has in hand. -/
theorem secondRecordHalfFlipsTheBanks : Obligations.SecondRecordHalfFlipsTheBanks := by
  intro s resp x rest k a u y flipped closed low writes tag
  obtain ⟨o, ho⟩ : ∃ o, o = (s.opened.writeOff rest).memErrOf resp := ⟨_, rfl⟩
  have response : s.opened.halfResponse resp = o.halfAnswered k := ho ▸ State.halfResponse_head (s := s.opened) writes tag
  obtain ⟨m, marked⟩ := (s.opened.writeOff rest).memErrOf_marked resp
  rw [← ho, ← State.ownWriteAnswered_eq] at marked
  have strand : o.strand k = s.strand k := by
    rw [marked]
    cases resp <;> rfl
  have billet : o.billet k = y := (congrArg Strand.billet strand :)
  have frame {b : State} (settles : b.Settles (o.halfAnswered k)) : Answers (.billetRecordWriteResponse resp) s b :=
    .of_event_settles (f := fun t => t.halfResponse resp) rfl low (response ▸ settles)
  have flips (z : Strand) : ((a.withStrand k z).withCause .billet).Marked (((o.withStrand k z).raise .billet).markStrand k) := by
    have both : a.Marked o := ⟨m, marked⟩
    exact ((both.withStrand z).withCause .billet).trans (.trans (.raise _ _) (.markDirty _ _))
  have raised (z : Strand) : (((o.withStrand k z).raise .billet).markStrand k).billet k = z.billet :=
    congrArg Strand.billet (o.strandRaised_strand k z .billet)
  refine ⟨fun first => frame ?_, fun b second hand none => frame ?_, fun b f second hand waits => ?_,
    fun f second hand => frame ?_⟩
  · rw [State.halfAnswered_first (by rw [billet]; exact first), billet, strand, marked]
    exact .ofMarks _ m
  · rw [State.halfAnswered_second (by rw [billet]; exact second) (by rw [billet]; exact hand), strand]
    dsimp only
    rw [State.startWaitingFinal_none (by rw [raised]; exact none)]
    exact (flips closed).settles
  · have second_ := State.halfAnswered_second (s := o) (k := k) (by rw [billet]; exact second) (by rw [billet]; exact hand)
    dsimp only at second_
    rw [strand, State.startWaitingFinal_some (by rw [raised]; exact waits), raised, State.strandRaised_strand] at second_
    obtain ⟨q, hq⟩ : ∃ q, q = (((o.withStrand k closed).raise .billet).markStrand k).withStrand k
      { closed with billet := { flipped with finalWaiting := none } } := ⟨_, rfl⟩
    refine ⟨q, ?_, frame ?_⟩
    · have last := (flips closed).withStrand (k := k) { closed with billet := { flipped with finalWaiting := none } }
      rw [← hq] at last
      have first := a.withStrand_withStrand k closed { closed with billet := { flipped with finalWaiting := none } }
      refine State.Settles.trans ?_ last.settles
      rw [← first]
      exact .refl _
    · rw [second_, hq]
      exact .refl _
  · rw [State.halfAnswered_second (by rw [billet]; exact second) (by rw [billet]; exact hand), strand]
    dsimp only
    obtain ⟨z, hz⟩ : ∃ z, z = (s.strand k).closed .final := ⟨_, rfl⟩
    obtain ⟨p, hp⟩ : ∃ p, p = ((o.withStrand k z).raise .billet).markStrand k := ⟨_, rfl⟩
    have pStrand : p.strand k = z := hp ▸ o.strandRaised_strand k z .billet
    have pBillet : p.billet k = z.billet := (congrArg Strand.billet pStrand :)
    have discarded := p.discardHolds_marked k 0
    rw [pStrand, pBillet] at discarded
    have dStrand : (p.discardHolds k 0).strand k = { z with billet := { z.billet with
        holdList := [], discardedHolds := bumpBy (z.billet.holdList.length + 0) z.billet.discardedHolds } } := by
      obtain ⟨n, same⟩ := discarded
      rw [same]
      exact p.withStrand_strand k _
    have ends := State.endFinal_marked discarded dStrand
    obtain ⟨n, same⟩ := flips z
    rw [← hp] at same
    rw [← hz, ← hp]
    refine State.Settles.trans ?_ ends.settles
    rw [same, hz]
    unfold State.withStrand State.withCause
    simp only [vset_vset]
    cases resp
    · exact .ofMarks _ n
    · exact .ofMarks _ n

/-- Settles O43: each kind by its unit's answer. -/
theorem ownWritesAreAnswered : Obligations.OwnWritesAreAnswered := by
  refine ⟨fun s resp x rest low writes tag => ?ring, fun s resp x rest low writes tag => ?row, ?header⟩
  case ring =>
    refine .of_event_settles (f := fun t => t.ringResponse resp) rfl low ?_
    rw [State.ringResponse_head (s := s.opened) writes tag]
    refine .trans ?_ (State.memErrOf_marked _ resp).settles
    cases resp
    · exact .refl _
    · exact .refl _
  case row =>
    refine .of_event_settles (f := fun t => t.rowResponse resp) rfl low ?_
    rw [State.rowResponse_head (s := s.opened) writes tag, State.ownWriteAnswered_eq]
    exact (State.memErrOf_marked _ resp).settles
  case header =>
    intro s resp x rest i o e z late low writes tag finished
    obtain ⟨q, hq⟩ : ∃ q, q = (s.opened.writeOff rest).memErrOf resp := ⟨_, rfl⟩
    have response : s.opened.headerResponse resp = q.headerAnswered i := hq ▸ State.headerResponse_head (s := s.opened) writes tag
    obtain ⟨m, marked⟩ := (s.opened.writeOff rest).memErrOf_marked resp
    rw [← hq, ← State.ownWriteAnswered_eq] at marked
    have evidence : q.evidence = e := by
      rw [marked]
      cases resp <;> rfl
    have slot : q.slot i = z := congrArg (fun v : Evidence => vget v.slots i) evidence
    refine ⟨q.headerDone i, ?_, ?_⟩
    · unfold State.headerDone Evidence.headerDone
      rw [slot, evidence, finished, Evidence.countHeader_some]
      refine .trans ?_ (.trans (.raise _ _) (.markDirty _ _))
      rw [marked]
      exact .ofMarks _ m
    · refine .of_event_settles (f := fun t => t.headerResponse resp) rfl low ?_
      rw [response, State.headerAnswered_eq, slot]
      exact .refl _

end

-- ==== The range of a copy (R156 to R158) ====
section
/-!
PROOFS. The rows of a copy by their ages, and the lines that a slot protects by the rows not yet returned.
-/
namespace Sys2Proof.Machine

/-! ### Ages in a ring -/

section
variable {n m L : Nat} (some_ : 0 < L)
include some_

/-- A number counted back and forth in a ring. -/
theorem mod_back_forth : ((n + L - m % L) % L + m) % L = n % L := by
  have low : m % L < L := Nat.mod_lt m some_
  have split : m = m % L + L * (m / L) := (Nat.mod_add_div m L).symm
  calc ((n + L - m % L) % L + m) % L = (n + L - m % L + m) % L := Nat.mod_add_mod _ _ _
    _ = (n + L * (m / L + 1)) % L := by
      congr 1
      rw [Nat.mul_add, Nat.mul_one]
      omega
    _ = n % L := Nat.add_mul_mod_self_left n L _

/-- The age of a line: how far the line lies back, from 1 to the size of the ring. -/
theorem ageOf_spec : 1 ≤ ageOf n L m ∧ ageOf n L m ≤ L ∧ (ageOf n L m + m) % L = n % L := by
  have back := mod_back_forth (n := n) (m := m) some_
  have low := Nat.mod_lt (n + L - m % L) some_
  unfold ageOf
  dsimp only
  split
  · next zero =>
    rw [zero, Nat.zero_add] at back
    exact ⟨some_, le_refl L, (Nat.add_mod_left L m).trans back⟩
  · next pos => exact ⟨Nat.one_le_iff_ne_zero.mpr pos, low.le, back⟩

/-- The place of a line among the rows that begin at another. -/
theorem ring_place {o l j : Nat} (oldest : o < L) (below : j < L) : l = (o + j) % L ↔ l < L ∧ (l + L - o) % L = j := by
  constructor
  · rintro rfl
    refine ⟨Nat.mod_lt _ some_, ?_⟩
    obtain inside | around := Nat.lt_or_ge (o + j) L
    · rw [Nat.mod_eq_of_lt inside, show o + j + L - o = j + L by omega, Nat.add_mod_right, Nat.mod_eq_of_lt below]
    · have wraps : (o + j) % L = o + j - L := by
        rw [Nat.mod_eq_sub_mod around]
        exact Nat.mod_eq_of_lt (by omega)
      rw [wraps, show o + j - L + L - o = j by omega, Nat.mod_eq_of_lt below]
  · rintro ⟨low, rfl⟩
    have back := mod_back_forth (n := l) (m := o) some_
    rw [Nat.mod_eq_of_lt oldest, Nat.add_comm, Nat.mod_eq_of_lt low] at back
    exact back.symm

end

/-! ### The range (R156, R157) -/

/-- The line after the last completed one, or after the track's last line. -/
def lineAfter (completed : Option Nat) (lastRing L : Nat) : Nat :=
  match completed with
  | some l => (l + 1) % L
  | none => lastRing + 1

theorem lineAfter_mod (completed : Option Nat) (lastRing L : Nat) : lineAfter completed lastRing L % L =
    (match completed with
    | none => lastRing + 1
    | some l => l + 1) % L := by
  cases completed with
  | none => rfl
  | some l => exact Nat.mod_mod _ _

/-! ### Protected lines (R158) -/

theorem State.slotProtects_iff (s : State) (i : Fin 4) (w : Fin 16) (line : Nat) : s.slotProtects i w line = true ↔
    ((s.slot i).state = .queued ∨ (s.slot i).state = .copying) ∧ (s.slot i).outcome = none ∧ (s.slot i).window = w ∧
      line < (s.window w).ringLines ∧ (s.slot i).rowOf (s.window w).ringLines line < (s.slot i).rowCount ∧
      (s.slot i).rowsReturned ≤ (s.slot i).rowOf (s.window w).ringLines line := by
  unfold State.slotProtects
  simp only [Bool.and_eq_true, Slot.live_iff, beq_iff_eq, decide_eq_true_eq, and_assoc]

end Sys2Proof.Machine

open Sys2Proof Sys2Proof.Machine

/-! ### The statement -/

/-- Settles O44: the ages, and the rows counted in the ring. -/
theorem copyRangeFollowsTheRing : Obligations.CopyRangeFollowsTheRing := by
  refine ⟨?range, ?protects⟩
  case range =>
    intro g x completed q lines guard first last inRing r next
    have some_ : 0 < lines := by omega
    have nextSame : lineAfter completed q.lastRing lines % lines = next % lines := lineAfter_mod completed q.lastRing lines
    obtain ⟨low, high, age⟩ := ageOf_spec (n := lineAfter completed q.lastRing lines) (m := q.lastRing) some_
    refine ⟨ageOf (lineAfter completed q.lastRing lines) lines q.lastRing, low, high, age.trans nextSame, ?_⟩
    rw [show q.lastRing + lines - q.firstRing = q.lastRing + lines - q.firstRing % lines by rw [Nat.mod_eq_of_lt first]]
    intro firstAge newest oldest rows capacity kept
    have rowCount : r.rowCount = if capacity < rows then capacity else rows := rfl
    have oldestLine : r.oldestLine = (lineAfter completed q.lastRing lines + lines - kept % lines) % lines := rfl
    have clipped : r.clipped = (decide (kept < firstAge) || decide (capacity < rows)) := rfl
    refine ⟨?_, fun _ => ⟨?_, ?_⟩, ?_, rfl, rfl, rfl, rfl⟩
    · rw [rowCount]
      split <;> omega
    · rw [oldestLine]
      exact Nat.mod_lt _ some_
    · rw [oldestLine, mod_back_forth some_, nextSame]
    · rw [clipped, Bool.or_eq_true, decide_eq_true_eq, decide_eq_true_eq]
  case protects =>
    intro s i w line z lines oldest count
    have some_ : 0 < lines := by omega
    rw [State.slotProtects_iff]
    refine and_congr_right fun _ => and_congr_right fun _ => and_congr_right fun _ => ?_
    constructor
    · rintro ⟨inRing, below, left⟩
      exact ⟨_, left, below, (ring_place some_ oldest (Nat.mod_lt _ some_)).mpr ⟨inRing, rfl⟩⟩
    · rintro ⟨j, left, below, place⟩
      obtain ⟨inRing, row⟩ := (ring_place some_ oldest (by omega)).mp place
      have row_ : z.rowOf lines line = j := row
      exact ⟨inRing, row_ ▸ below, row_ ▸ left⟩

end

-- ==== Ring reads (R161 to R164) ====
section
/-!
PROOFS. A transaction that the engine makes while a place is free joins the queue at once; so a read answered writes its data, and
the next read or the header follows.
-/
namespace Sys2Proof.Machine

/-! ### One slot's record, written twice -/

section
variable (s : State) (i : Fin 4)

theorem State.setSlot_setSlot (x y : Slot) : (s.setSlot i x).setSlot i y = s.setSlot i y := by
  unfold State.setSlot
  rw [vset_vset]

theorem State.setSlot_slot_same (x : Slot) : (s.setSlot i x).slot i = x := (s.slot_setSlot i i x).trans (if_pos rfl)

end

/-! ### The engine's transactions (R16, R152, R161) -/

/-- A transaction that the engine makes joins the queue at once. -/
def State.joinsAtOnce (s : State) : Prop :=
  s.own.engine = [] ∧ s.own.queue.length + s.own.waiters.length < 8 ∧ ∀ n, (.evidence, n) ∉ s.own.waiters

/-- The state with a transaction at the tail of the queue. -/
def State.queued (s : State) (t : OwnTxn) : State := { s with own := { s.own with queue := s.own.queue ++ [t] } }

/-- A slot written before a transaction joins and after it. -/
theorem State.queued_setSlot (s : State) (i : Fin 4) (x : Slot) (t : OwnTxn) (y : Slot) :
    ((s.setSlot i x).queued t).setSlot i y = (s.queued t).setSlot i y := by
  unfold State.setSlot State.queued
  rw [vset_vset]

section
variable {s : State}

theorem State.waits_evidence_iff : s.waits .evidence = false ↔ ∀ n, (.evidence, n) ∉ s.own.waiters := by
  rw [Bool.eq_false_iff, ne_eq, State.waits_iff]
  constructor
  · exact fun no n mem => no ⟨_, mem, rfl⟩
  · rintro no ⟨⟨w, n⟩, mem, rfl⟩
    exact no n mem

theorem State.joinsAtOnce_iff : (s.own.engine.isEmpty && !s.waits .evidence && s.placeFree) = true ↔ s.joinsAtOnce := by
  unfold State.joinsAtOnce
  rw [Bool.and_eq_true, Bool.and_eq_true, List.isEmpty_iff, Bool.not_eq_true', State.waits_evidence_iff, s.placeFree_iff,
    and_assoc]
  exact and_congr_right fun _ => and_comm

theorem State.engineMake_direct (direct : s.joinsAtOnce) (t : OwnTxn) : s.engineMake t = (s.readIssued t.tag).queued t := by
  have room : s.own.queue.length < 8 := by
    obtain ⟨-, room, -⟩ := direct
    omega
  unfold State.engineMake
  rw [if_pos (State.joinsAtOnce_iff.mpr direct)]
  unfold State.engineIssue
  exact State.pushOwn_joins _ t (by rw [State.readIssued_own]; exact room)

theorem State.engineMake_behind (behind : ¬s.joinsAtOnce) (t : OwnTxn) : s.engineMake t =
    { s with own := { s.own with
      engine := s.own.engine ++ [t]
      waiters := s.own.waiters ++ if s.waits .evidence then [] else [(.evidence, s.eventNumber)] } } := by
  unfold State.engineMake
  rw [if_neg (behind ∘ State.joinsAtOnce_iff.mp)]
  have waits : State.waits { s with own := { s.own with engine := s.own.engine ++ [t] } } .evidence = s.waits .evidence := rfl
  unfold State.beginWait
  rw [waits]
  split
  · rw [List.append_nil]
  · rfl

/-- The ring read that a slot makes next. -/
def State.nextRead (s : State) (i : Fin 4) : OwnTxn :=
  { tag := .ringRead i (s.slot i).order, addr := BitVec.ofNat 40 (s.readAddress (s.slot i)), count := s.readSize (s.slot i)
    data := [] }

/-- The header of a slot with an outcome. -/
def State.headerWrite (s : State) (i : Fin 4) (o : Outcome) : OwnTxn :=
  { tag := .tileHeader i
    addr := BitVec.ofNat 40 (s.globals.evidenceBase + (s.slot i).tile.val * (65536 * 2 ^ s.globals.tileSizeLog)), count := 64
    data := tileHeader (s.slot i) o }

theorem State.nextRead_of {i : Fin 4} {z : Slot} (h : s.slot i = z) : s.nextRead i =
    { tag := .ringRead i z.order, addr := BitVec.ofNat 40 (s.readAddress z), count := s.readSize z, data := [] } := by
  unfold State.nextRead
  rw [h]

theorem State.headerWrite_of {i : Fin 4} {z : Slot} (h : s.slot i = z) (o : Outcome) : s.headerWrite i o =
    { tag := .tileHeader i
      addr := BitVec.ofNat 40 (s.globals.evidenceBase + z.tile.val * (65536 * 2 ^ s.globals.tileSizeLog)), count := 64
      data := tileHeader z o } := by
  unfold State.headerWrite
  rw [h]

/-- Where a slot reads next depends on the shadow alone. -/
theorem State.readAddress_shadow {s t : State} (h : t.shadow = s.shadow) (z : Slot) :
    t.readAddress z = s.readAddress z ∧ t.readSize z = s.readSize z := by
  have address : t.readAddress z = s.readAddress z := by
    unfold State.readAddress State.window
    rw [h]
  refine ⟨address, ?_⟩
  unfold State.readSize
  rw [address]

theorem State.makeRead_direct (direct : s.joinsAtOnce) (i : Fin 4) : s.makeRead i =
    (s.setSlot i { s.slot i with readOutstanding := true }).queued (s.nextRead i) := State.engineMake_direct direct _

theorem State.makeHeader_direct (direct : s.joinsAtOnce) (i : Fin 4) (o : Outcome) : s.makeHeader i o =
    (s.setSlot i { s.slot i with outcome := some o }).queued (s.headerWrite i o) :=
  State.engineMake_direct (s := s.setSlot i { s.slot i with outcome := some o }) direct _

/-- The write of a row's data. -/
def rowWrite (place : Nat) (data : List Byte) : OwnTxn :=
  { tag := .tileRow, addr := BitVec.ofNat 40 place, count := data.length, data := data }

theorem State.makeRowWrites_one {place : Nat} {data : List Byte} (fits : data.length ≤ 4096 - place % 4096) :
    s.makeRowWrites place data = s.engineMake (rowWrite place data) := if_pos fits

theorem State.makeRowWrites_two {place : Nat} {data : List Byte} (crosses : 4096 - place % 4096 < data.length) :
    s.makeRowWrites place data = (s.engineMake (rowWrite place (data.take (4096 - place % 4096)))).engineMake
      (rowWrite (place + (4096 - place % 4096)) (data.drop (4096 - place % 4096))) := by
  have count : (data.take (4096 - place % 4096)).length = 4096 - place % 4096 := List.length_take_of_le crosses.le
  unfold rowWrite
  rw [count, List.length_drop]
  exact if_neg (Nat.not_le.mpr crosses)

/-- The writes of a row's data change the own traffic alone. -/
theorem State.makeRowWrites_same (s : State) (place : Nat) (data : List Byte) :
    ∃ o, s.makeRowWrites place data = { s with own := o } := by
  obtain fits | crosses := le_or_gt data.length (4096 - place % 4096)
  · rw [State.makeRowWrites_one fits, s.engineMake_write _ rfl]
    exact ⟨_, rfl⟩
  · rw [State.makeRowWrites_two crosses, s.engineMake_write _ rfl, State.engineMake_write _ _ rfl]
    exact ⟨_, rfl⟩

end

/-! ### The data of a read (R161) -/

/-- Where the data of a slot's read goes. -/
def State.dataPlace (s : State) (z : Slot) : Nat :=
  s.globals.evidenceBase + z.tile.val * (65536 * 2 ^ s.globals.tileSizeLog) + 64 + z.rowsReturned * z.rowBytes + z.rowPos

theorem State.readReturned_eq (s : State) (i : Fin 4) (data : List Byte) : s.readReturned i data =
    let z := s.slot i
    let b := s.makeRowWrites (s.dataPlace z) data
    let ended := (b.setSlot i { z with rowsReturned := z.rowsReturned + 1, rowPos := 0 }).releaseStep
    if z.rowPos + data.length < z.rowBytes then (b.setSlot i { z with rowPos := z.rowPos + data.length }).makeRead i
    else if z.rowsReturned + 1 < z.rowCount then ended.makeRead i
    else ended.makeHeader i (if z.clipped then .clipped else .complete) := by
  obtain ⟨b, hb⟩ : ∃ b, b = s.makeRowWrites (s.dataPlace (s.slot i)) data := ⟨_, rfl⟩
  have slot : b.slot i = s.slot i := by
    obtain ⟨o, same⟩ := s.makeRowWrites_same (s.dataPlace (s.slot i)) data
    rw [hb, same]
    rfl
  have place : s.rowPlace (s.slot i) = s.dataPlace (s.slot i) := rfl
  unfold State.readReturned State.rowEnded
  dsimp only
  rw [place, ← hb, slot]

theorem State.queued_joinsAtOnce {s : State} (direct : s.own.engine = []) (room : s.own.queue.length + s.own.waiters.length ≤ 6)
    (free : ∀ n, (.evidence, n) ∉ s.own.waiters) (t : OwnTxn) : (s.queued t).joinsAtOnce := by
  refine ⟨direct, ?_, free⟩
  have length : (s.queued t).own.queue.length = s.own.queue.length + 1 := List.length_append
  have waiters : (s.queued t).own.waiters = s.own.waiters := rfl
  rw [length, waiters]
  omega

/-- With room for two, the data of a read that fits one write are written and what follows joins too. -/
theorem State.readReturned_direct {s : State} {i : Fin 4} {data : List Byte} (fits : data.length + s.dataPlace (s.slot i) % 4096 ≤ 4096)
    (direct : s.own.engine = []) (room : s.own.queue.length + s.own.waiters.length ≤ 6)
    (free : ∀ n, (.evidence, n) ∉ s.own.waiters) : s.readReturned i data =
      let z := s.slot i
      let b := s.queued (rowWrite (s.dataPlace z) data)
      let next := b.setSlot i { z with rowPos := z.rowPos + data.length }
      let ended := (b.setSlot i { z with rowsReturned := z.rowsReturned + 1, rowPos := 0 }).releaseStep
      let o : Outcome := if z.clipped then .clipped else .complete
      if z.rowPos + data.length < z.rowBytes then
        (next.setSlot i { next.slot i with readOutstanding := true }).queued (next.nextRead i)
      else if z.rowsReturned + 1 < z.rowCount then
        (ended.setSlot i { ended.slot i with readOutstanding := true }).queued (ended.nextRead i)
      else (ended.setSlot i { ended.slot i with outcome := some o }).queued (ended.headerWrite i o) := by
  have first : s.joinsAtOnce := ⟨direct, by omega, free⟩
  have row : s.makeRowWrites (s.dataPlace (s.slot i)) data = s.queued (rowWrite (s.dataPlace (s.slot i)) data) := by
    rw [State.makeRowWrites_one (by omega), State.engineMake_direct first]
    rfl
  have second (x : Slot) : ((s.queued (rowWrite (s.dataPlace (s.slot i)) data)).setSlot i x).joinsAtOnce :=
    State.queued_joinsAtOnce direct room free _
  have third (x : Slot) : ((s.queued (rowWrite (s.dataPlace (s.slot i)) data)).setSlot i x).releaseStep.joinsAtOnce := by
    obtain ⟨p, c, same⟩ := ((s.queued (rowWrite (s.dataPlace (s.slot i)) data)).setSlot i x).releaseStep_same
    rw [same]
    exact second x
  rw [State.readReturned_eq]
  dsimp only
  rw [row, State.makeRead_direct (second _), State.makeRead_direct (third _), State.makeHeader_direct (third _)]

/-! ### The response to a ring read (R161 to R164) -/

section
variable {s : State} {i : Fin 4} {n : Nat} {data : List Byte}

/-- The read is the slot's own. -/
def State.ownRead (s : State) (i : Fin 4) (n : Nat) : Prop :=
  (s.slot i).state ≠ .idle ∧ (s.slot i).order = n ∧ (s.slot i).readOutstanding = true

theorem State.ownRead_iff (s : State) (i : Fin 4) (n : Nat) :
    ((s.slot i).state != .idle && (s.slot i).order == n && (s.slot i).readOutstanding) = true ↔ s.ownRead i n := by
  unfold State.ownRead
  simp only [Bool.and_eq_true, bne_iff_ne, beq_iff_eq, ne_eq, and_assoc]

theorem State.ringReadAnswered_mine (mine : s.ownRead i n) (resp : Resp) : s.ringReadAnswered i n resp data =
    let o := s.setSlot i { s.slot i with readOutstanding := false }
    let p := if resp = .error then o.countReadError i true else o
    if (s.slot i).outcome = none then p.readReturned i data else p := by
  unfold State.ringReadAnswered
  dsimp only
  rw [(s.ownRead_iff i n).mpr mine]
  simp only [if_true, Bool.true_and, Option.isNone_iff_eq_none]

theorem State.ringReadAnswered_other (other : ¬s.ownRead i n) (resp : Resp) : s.ringReadAnswered i n resp data =
    if resp = .error then s.countReadError i false else s := by
  have no : ((s.slot i).state != .idle && (s.slot i).order == n && (s.slot i).readOutstanding) = false :=
    Bool.eq_false_iff.mpr (other ∘ (s.ownRead_iff i n).mp)
  unfold State.ringReadAnswered
  dsimp only
  rw [no]
  simp only [Bool.false_eq_true, if_false, Bool.false_and]

/-- The state with one read error more. -/
def State.errorCounted (s : State) : State :=
  { s with evidence := { s.evidence with readErrors := bump s.evidence.readErrors } }

theorem State.countReadError_other (s : State) (i : Fin 4) :
    (s.errorCounted.withCause .memErr).Marked (s.countReadError i false) := .raise _ _

theorem State.countReadError_mine (s : State) (i : Fin 4) : State.Marked
    ((s.setSlot i { s.slot i with readErrors := min 255 ((s.slot i).readErrors + 1) }).errorCounted.withCause .memErr)
    (s.countReadError i true) := by
  obtain ⟨m, same⟩ := s.errorCounted.raise_eq_withCause .memErr
  have counted : s.countReadError i true = (s.errorCounted.raise .memErr).setSlot i
      { (s.errorCounted.raise .memErr).slot i with
        readErrors := min 255 (((s.errorCounted.raise .memErr).slot i).readErrors + 1) } := rfl
  refine ⟨m, ?_⟩
  rw [counted, same]
  rfl

theorem State.readResponse_head {x : OwnTxn} {rest : List OwnTxn} (resp : Resp) (reads : s.own.reads = x :: rest)
    (tag : x.tag = .ringRead i n) (fits : x.count = data.length) : s.readResponse resp data =
      (State.ringReadAnswered { s with own := { s.own with reads := rest } } i n resp data).takePresented := by
  unfold State.readResponse State.answerRead
  rw [reads]
  dsimp only
  rw [tag]
  exact if_pos fits

end

end Sys2Proof.Machine

open Sys2Proof Sys2Proof.Machine

/-! ### The statement -/

/-- Settles O42: the response by whether the read is still its slot's own, the data by whether they end the row. -/
theorem ringReadFillsTheTile : Obligations.RingReadFillsTheTile := by
  refine ⟨fun s z => ⟨rfl, rfl⟩, fun s i => ⟨rfl, fun o => rfl⟩, ?makes, ?fills, ?rows, fun s i data => ?returned, ?discards,
    ?response, ?answered⟩
  case makes =>
    intro s x direct joined
    refine ⟨fun joins write => ?_, fun joins i n tag => ?_, State.engineMake_behind (s := s) (t := x)⟩
    · rw [State.engineMake_direct joins, State.readIssued_write s write]
      rfl
    · rw [State.engineMake_direct joins, tag]
      rfl
  case rows =>
    intro s place data room row
    exact ⟨State.makeRowWrites_one, State.makeRowWrites_two⟩
  case returned => exact s.readReturned_eq i data
  case response =>
    intro s resp data x rest i n low reads tag fits
    refine .of_event (f := fun t => t.readResponse resp data) rfl low ?_
    exact State.readResponse_head (s := s.opened) resp reads tag fits
  case discards =>
    intro s data x rest i n low quiet reads tag fits
    obtain ⟨reads_, writes⟩ := quiet
    have response : s.opened.readResponse .okay data =
        (State.ringReadAnswered { s.opened with own := { s.own with reads := rest } } i n .okay data).takePresented :=
      State.readResponse_head (s := s.opened) .okay reads tag fits
    refine ⟨fun other => ?_, fun busy order out done => ?_⟩
    · have answered : State.ringReadAnswered { s.opened with own := { s.own with reads := rest } } i n .okay data =
          { s.opened with own := { s.own with reads := rest } } :=
        State.ringReadAnswered_other (s := { s.opened with own := { s.own with reads := rest } })
          (fun own => other.elim own.1 fun no => no own.2.1) .okay
      refine .of_event (f := fun t => t.readResponse .okay data) rfl low (response.trans ?_)
      rw [answered]
      exact State.takePresented_none _ reads_ writes
    · have answered : State.ringReadAnswered { s.opened with own := { s.own with reads := rest } } i n .okay data =
          State.setSlot { s.opened with own := { s.own with reads := rest } } i { s.slot i with readOutstanding := false } :=
        (State.ringReadAnswered_mine (s := { s.opened with own := { s.own with reads := rest } }) ⟨busy, order, out⟩
          .okay).trans (if_neg done)
      refine .of_event (f := fun t => t.readResponse .okay data) rfl low (response.trans ?_)
      rw [answered]
      exact State.takePresented_none _ reads_ writes
  case answered =>
    intro s i n data z mine v become counted
    refine ⟨fun own => ⟨?_, ?_⟩, fun other => ⟨?_, ?_⟩⟩
    · rw [State.ringReadAnswered_mine own]
      rfl
    · refine ⟨State.countReadError (become { z with readOutstanding := false }) i true, ?_, ?_⟩
      · have settles := (State.countReadError_mine (s.setSlot i { z with readOutstanding := false }) i).settles
        rw [s.setSlot_slot_same, s.setSlot_setSlot] at settles
        exact settles
      · rw [State.ringReadAnswered_mine own]
        rfl
    · rw [State.ringReadAnswered_other other]
      rfl
    · rw [State.ringReadAnswered_other other]
      exact (s.countReadError_other i).settles
  case fills =>
    intro s data x rest i z place low quiet reads tag fits copying out open_ inPage direct room free row answered withSlot
    obtain ⟨reads_, writes⟩ := quiet
    obtain ⟨q, hq⟩ : ∃ q, q = State.setSlot { s.opened with own := { s.own with reads := rest } } i
      { z with readOutstanding := false } := ⟨_, rfl⟩
    have slot : q.slot i = { z with readOutstanding := false } := hq ▸ State.setSlot_slot_same _ i _
    have own : q.own = { s.own with reads := rest } := by rw [hq]; rfl
    have globals : q.globals = s.globals := by rw [hq]; rfl
    have there : q.dataPlace (q.slot i) = place := by
      rw [slot]
      unfold State.dataPlace
      rw [globals]
    have mine : State.ownRead { s.opened with own := { s.own with reads := rest } } i z.order :=
      ⟨fun idle => (nomatch copying.symm.trans idle), rfl, out⟩
    have returned : State.ringReadAnswered { s.opened with own := { s.own with reads := rest } } i z.order .okay data =
        q.readReturned i data := (State.ringReadAnswered_mine mine .okay).trans ((if_pos open_).trans (hq ▸ rfl))
    have response : s.opened.readResponse .okay data = (q.readReturned i data).takePresented :=
      (State.readResponse_head (s := s.opened) .okay reads tag fits).trans (congrArg State.takePresented returned)
    have done := State.readReturned_direct (s := q) (i := i) (data := data) (by rw [there]; exact inPage) (by rw [own]; exact direct)
      (by rw [own]; exact room) (by rw [own]; exact State.waits_evidence_iff.mp free)
    dsimp only at done
    rw [there, slot] at done
    have frame (b : State) (same : q.readReturned i data = b) : Answers (.ringReadResponse .okay data) s b.takePresented :=
      .of_event (f := fun t => t.readResponse .okay data) rfl low (response.trans (congrArg State.takePresented same))
    have row_ : (q.queued row).setSlot i = State.setSlot answered i := funext fun x => hq ▸ State.queued_setSlot _ i _ row x
    rw [show rowWrite place data = row from rfl, row_] at done
    refine ⟨fun more => ?_, fun ends => ?_⟩
    · intro v
      have next := done.trans (if_pos more)
      rw [State.setSlot_slot_same, State.setSlot_setSlot, ← out] at next
      rw [State.nextRead_of (State.setSlot_slot_same answered i _)] at next
      have path := State.takePresented_none (State.queued (answered.setSlot i v)
        { tag := .ringRead i z.order, addr := BitVec.ofNat 40 (s.readAddress v), count := s.readSize v, data := [] }) reads_ writes
      have taken : Answers (.ringReadResponse .okay data) s (State.takePresented (State.queued (answered.setSlot i v)
        { tag := .ringRead i z.order, addr := BitVec.ofNat 40 (s.readAddress v), count := s.readSize v, data := [] })) :=
        frame _ next
      rw [path] at taken
      exact taken
    · intro v b
      obtain ⟨p, c, same⟩ := (withSlot answered { v with readOutstanding := false }).releaseStep_same
      have slot_ : b.slot i = { v with readOutstanding := false } := by
        simp only [b, same]
        exact State.setSlot_slot_same answered i _
      have shadow : b.shadow = s.shadow := by
        simp only [b, same]
        rfl
      have ended := done.trans (if_neg (Nat.not_lt.mpr ends))
      have b_ : State.releaseStep (answered.setSlot i { v with readOutstanding := false }) = b := rfl
      obtain ⟨address, size⟩ := State.readAddress_shadow shadow { v with readOutstanding := false }
      refine ⟨fun more => ?_, fun last => ?_⟩
      · have next := ended.trans (if_pos more)
        dsimp only at next
        rw [b_, slot_, State.nextRead_of slot_, address, size, ← out] at next
        exact frame _ next
      · intro o h
        have next := ended.trans (if_neg (Nat.not_lt.mpr last))
        dsimp only at next
        rw [b_, slot_, State.headerWrite_of slot_, State.globals, shadow] at next
        exact frame _ next

end

-- ==== Line results, findings and copy requests (R71, R79 to R82, R126 to R136, R150 to R160) ====
section
/-!
PROOFS. What a processed line leaves, how a finding is filtered, alerted and held, and what answers a copy request: one equation
for each case of each function. The copy engine's choice and the victim of a request are both the best of the slots that a test
names, by an order.
-/
namespace Sys2Proof.Machine

/-! ### A processed line (R71, R79 to R82) -/

/-- The state of a face whose model a line has taught. -/
def State.taught (s : State) (l : Line) : State :=
  let x := s.face l.face
  let p := x.model.process (s.crackThreshold l.face) l
  s.setFace l.face
    { x with
      model := p.1
      counts := { x.counts with
        admittedLines := bump x.counts.admittedLines
        noisy := if p.2.2 then bump x.counts.noisy else x.counts.noisy } }

section
variable {s : State} {l : Line}

theorem State.processLine_ready (ready : (s.face l.face).model.state = .ready) : s.processLine l =
    let p := (s.face l.face).model.process (s.crackThreshold l.face) l
    (s.taught l).offerResult
      { face := l.face, stamp := l.stamp, ringLine := l.index, noisy := p.2.2, gap := l.gap, lowConf := l.lowConf
        segments := p.2.1 } := if_pos ready

theorem State.processLine_warmed (other : (s.face l.face).model.state ≠ .ready)
    (warm : ((s.face l.face).model.process (s.crackThreshold l.face) l).1.state = .ready) :
    s.processLine l = (s.taught l).coverFace l.face := (if_neg other).trans (if_pos warm)

theorem State.processLine_warming (other : (s.face l.face).model.state ≠ .ready)
    (cold : ((s.face l.face).model.process (s.crackThreshold l.face) l).1.state ≠ .ready) : s.processLine l = s.taught l :=
  (if_neg other).trans (if_neg cold)

end

section
variable {s : State} {r : LineResult}

theorem State.offerResult_joins (room : resultsQueued s.lineQueue < 32) : s.offerResult r =
    let x := s.face r.face
    State.setFace { s with lineQueue := s.lineQueue ++ [.result r] } r.face
      { x with queuedCount := x.queuedCount + 1, counts := { x.counts with queued := bump x.counts.queued } } := if_pos room

theorem State.offerResult_dropped (full : 32 ≤ resultsQueued s.lineQueue) : s.offerResult r =
    let x := s.face r.face
    ((s.setFace r.face { x with counts := { x.counts with dropped := bump x.counts.dropped } }).raise .trackLimit).markFace
      r.face := if_neg (Nat.not_lt.mpr full)

end

/-! ### The filter (R129) -/

/-- An entry hits where its code agrees with the key in every bit of its mask. -/
theorem FilterEntry.hitsKey_iff (x : FilterEntry) (key : BitVec 16) :
    x.hitsKey key = true ↔ ∀ n, x.mask.getLsbD n = true → key.getLsbD n = x.code.getLsbD n := by
  unfold FilterEntry.hitsKey
  rw [beq_iff_eq]
  constructor
  · intro agree n masked
    have bit := congrArg (fun v => BitVec.getLsbD v n) agree
    simpa [masked] using bit
  · intro agree
    refine BitVec.eq_of_getLsbD_eq fun n _ => ?_
    cases masked : x.mask.getLsbD n with
    | false => simp [masked]
    | true => simp [masked, agree n masked]

/-- An enabled entry hits. -/
def State.filterHits (s : State) (key : BitVec 16) (i : Fin 8) : Prop :=
  filterEnabled s.shadow i = true ∧
    ∀ n, (s.filter i).mask.getLsbD n = true → key.getLsbD n = (s.filter i).code.getLsbD n

section
variable {s : State}

theorem State.filterHits_iff (key : BitVec 16) (i : Fin 8) :
    (filterEnabled s.shadow i && (s.filter i).hitsKey key) = true ↔ s.filterHits key i := by
  rw [Bool.and_eq_true, FilterEntry.hitsKey_iff]
  exact Iff.rfl

theorem State.filterFinding_hit {f : Finding} {i : Fin 8} (hit : s.filterHits f.key i)
    (lowest : ∀ j, j < i → ¬s.filterHits f.key j) : s.filterFinding f =
      ({ f with filterHit := some i, action := actionOfCode (s.filter i).action },
        { s with ring := { s.ring with hits := vset s.ring.hits i (bump (vget s.ring.hits i)) } }) := by
  have found : s.filterHit f.key = some i :=
    find?_finRange ((State.filterHits_iff _ _).mpr hit) fun j low => Bool.eq_false_iff.mpr fun h =>
      lowest j low ((State.filterHits_iff _ _).mp h)
  unfold State.filterFinding
  rw [found]

theorem State.filterFinding_none {f : Finding} (none_ : ∀ i, ¬s.filterHits f.key i) : s.filterFinding f =
    ({ f with filterHit := none, action := .count }, { s with ring := { s.ring with noHit := bump s.ring.noHit } }) := by
  have found : s.filterHit f.key = none :=
    List.find?_eq_none.mpr fun i _ h => none_ i ((State.filterHits_iff _ _).mp h)
  unfold State.filterFinding
  rw [found]

/-! ### The alert (R131) -/

theorem qualifies_iff (alert severity : Nat) : qualifies alert severity = true ↔ 1 ≤ alert ∧ alert ≤ 3 ∧ alert ≤ severity := by
  unfold qualifies
  simp only [Bool.and_eq_true, decide_eq_true_eq, and_assoc]

theorem State.alertFinding_qualifies {f : Finding} (h : qualifies (s.settings f.strand).alertSeverity f.severity = true) :
    State.Marked
      ((s.setBillet f.strand
        { s.billet f.strand with
          alert := true, alertTimer := some (s.timeBase + 1000 * (s.settings f.strand).alertTime)
          alerts := bump (s.billet f.strand).alerts }).withCause .finding)
      (s.alertFinding f) := by
  unfold State.alertFinding
  dsimp only
  rw [if_pos h, milliseconds_eq]
  exact (State.Marked.raise _ _).trans (.markDirty _ _)

theorem State.alertFinding_other {f : Finding} (h : ¬qualifies (s.settings f.strand).alertSeverity f.severity = true) :
    s.alertFinding f = s := if_neg h

/-! ### The Hold List (R134 to R136) -/

/-- A pool entry is on a strand's Hold List. -/
def State.isHeld (s : State) (n : Nat) : Prop := ∃ k, ∃ e ∈ (s.billet k).holdList, e.number = n

theorem State.mem_poolNumbers (n : Nat) : n ∈ s.poolNumbers ↔ s.isHeld n := by
  unfold State.poolNumbers Billet.numbers State.isHeld
  simp only [List.mem_flatMap, List.mem_finRange, true_and, List.mem_map]

theorem State.freeEntry_lowest {n : Nat} (place : n < 256) (free : ¬s.isHeld n) (lowest : ∀ m, m < n → s.isHeld m) :
    s.freeEntry = some n := by
  refine List.find?_range_eq_some.mpr ⟨?_, List.mem_range.mpr place, fun m low => ?_⟩
  · simpa [State.mem_poolNumbers] using free
  · simpa [State.mem_poolNumbers] using lowest m low

theorem State.freeEntry_full (full : ∀ n, n < 256 → s.isHeld n) : s.freeEntry = none := by
  refine List.find?_eq_none.mpr fun n mem => ?_
  have held := State.mem_poolNumbers n |>.mpr (full n (List.mem_range.mp mem))
  simpa using held

/-- An element put in its place: behind those that it does not precede, in front of one that it does. -/
theorem insertBy_split {α : Type} (before : α → α → Bool) (x : α) (l : List α) : ∃ front behind, l = front ++ behind ∧
    insertBy before x l = front ++ x :: behind ∧ (∀ y ∈ front, before x y = false) ∧
    ∀ y, behind.head? = some y → before x y = true := by
  induction l with
  | nil => exact ⟨[], [], rfl, rfl, fun _ h => (nomatch h), fun _ h => (nomatch h)⟩
  | cons y rest ih =>
    by_cases first : before x y = true
    · refine ⟨[], y :: rest, rfl, if_pos first, fun _ h => (nomatch h), fun z hz => ?_⟩
      obtain rfl := Option.some.inj hz
      exact first
    · obtain ⟨front, behind, split, joined, low, high⟩ := ih
      refine ⟨y :: front, behind, congrArg (y :: ·) split, (if_neg first).trans (congrArg (y :: ·) joined), ?_, high⟩
      exact List.forall_mem_cons.mpr ⟨Bool.eq_false_iff.mpr first, low⟩

/-- An entry that joins a Hold List stands behind every entry of equal or less first travel. -/
theorem joinHold_split (e : PoolEntry) (l : List PoolEntry) : ∃ front behind, l = front ++ behind ∧
    joinHold e l = front ++ e :: behind ∧ (∀ y ∈ front, y.finding.firstTravel ≤ e.finding.firstTravel) ∧
    ∀ y, behind.head? = some y → e.finding.firstTravel < y.finding.firstTravel := by
  obtain ⟨front, behind, split, joined, low, high⟩ :=
    insertBy_split (fun x y : PoolEntry => decide (x.finding.firstTravel < y.finding.firstTravel)) e l
  exact ⟨front, behind, split, joined, fun y hy => Nat.not_lt.mp (of_decide_eq_false (low y hy)), fun y hy =>
    of_decide_eq_true (high y hy)⟩

theorem State.holdFinding_held {f : Finding} {n : Nat} (free : s.freeEntry = some n) : State.Marked
    (s.setBillet f.strand
      { s.billet f.strand with
        holdList := joinHold { number := n, finding := f } (s.billet f.strand).holdList
        listed := bump (s.billet f.strand).listed })
    (s.holdFinding f) := by
  unfold State.holdFinding
  rw [free]
  exact (State.Marked.markDirty _ _).trans (.markDirty _ _)

theorem State.holdFinding_tallied {f : Finding} (full : s.freeEntry = none) : State.Marked
    ((s.setBillet f.strand
      { s.billet f.strand with
        tally := (s.billet f.strand).tally.addFinding f.cls f.severity
        unlisted := bump (s.billet f.strand).unlisted }).withCause .trackLimit)
    (s.holdFinding f) := by
  unfold State.holdFinding
  rw [full]
  exact (State.Marked.raise _ _).trans (.markDirty _ _)

/-! ### The copy request of a finding (R133) -/

theorem State.evidenceFinding_asks {f : Finding} (asks : f.action = .evidence) (src : Source) : s.evidenceFinding f src =
    let answer := s.requestCopy
      { severity := f.severity, cls := f.cls, face := faceOf f.strand f.face, minCell := f.minCell, maxCell := f.maxCell
        firstTravel := f.firstTravel, lastTravel := src.lastTravel, window := src.window, firstRing := src.firstRing
        lastRing := src.lastRing, poolEntry := s.freeEntry }
    ({ f with evidence := answer.1.1, tile := answer.1.2 }, answer.2) := if_pos asks

theorem State.evidenceFinding_other {f : Finding} (other : f.action ≠ .evidence) (src : Source) :
    s.evidenceFinding f src = (f, s) := if_neg other

end

/-! ### The best of a list, by a test and an order (R153, R160) -/

/-- Of the best so far and one element more, the better. -/
def betterOf {α : Type} (test : α → Bool) (better : α → α → Bool) (best : Option α) (i : α) : Option α :=
  if test i then
    match best with
    | none => some i
    | some j => if better i j then some i else best
  else best

section
variable {α : Type} {test : α → Bool} {better : α → α → Bool} {l : List α} {i : α}

theorem foldl_betterOf_none (none_ : ∀ j ∈ l, test j = false) : l.foldl (betterOf test better) none = none := by
  induction l with
  | nil => rfl
  | cons j rest ih =>
    obtain ⟨first, others⟩ := List.forall_mem_cons.mp none_
    have kept : betterOf test better none j = none := if_neg (Bool.eq_false_iff.mp first)
    rw [List.foldl_cons, kept]
    exact ih others

/-- The best stays the best. -/
theorem foldl_betterOf_some (least : ∀ j ∈ l, test j = true → j ≠ i → better j i = false) :
    l.foldl (betterOf test better) (some i) = some i := by
  induction l with
  | nil => rfl
  | cons j rest ih =>
    obtain ⟨first, others⟩ := List.forall_mem_cons.mp least
    have kept : betterOf test better (some i) j = some i := by
      unfold betterOf
      by_cases named : test j = true
      · by_cases same : j = i
        · rw [if_pos named, same]
          exact ite_self _
        · rw [if_pos named]
          exact if_neg (Bool.eq_false_iff.mp (first named same))
      · exact if_neg named
    rw [List.foldl_cons, kept]
    exact ih others

/-- The element that is better than every other one named is found, from any start that it is better than. -/
theorem foldl_betterOf_eq (named : test i = true) (mem : i ∈ l) (best : Option α)
    (start : ∀ j, best = some j → better i j = true)
    (more : ∀ j ∈ l, test j = true → j ≠ i → better i j = true ∧ better j i = false) :
    l.foldl (betterOf test better) best = some i := by
  induction l generalizing best with
  | nil => exact (nomatch mem)
  | cons j rest ih =>
    obtain ⟨first, others⟩ := List.forall_mem_cons.mp more
    rw [List.foldl_cons]
    by_cases here : j = i
    · subst here
      have chosen : betterOf test better best j = some j := by
        unfold betterOf
        rw [if_pos named]
        cases best with
        | none => rfl
        | some b => exact if_pos (start b rfl)
      rw [chosen]
      exact foldl_betterOf_some fun b hb hn apart => (others b hb hn apart).2
    · refine ih ((List.mem_cons.mp mem).resolve_left (Ne.symm here)) _ (fun b hb => ?_) others
      unfold betterOf at hb
      split at hb
      · next hj =>
        cases best with
        | none =>
          obtain rfl := Option.some.inj hb
          exact (first hj here).1
        | some c =>
          dsimp only at hb
          split at hb
          · obtain rfl := Option.some.inj hb
            exact (first hj here).1
          · exact start b hb
      · exact start b hb

end

/-! ### The copy engine's choice (R160) -/

theorem Slot.choosable_iff (x : Slot) : x.choosable = true ↔ x.state = .queued ∧ x.outcome = none := by
  unfold Slot.choosable
  rw [Bool.and_eq_true, beq_iff_eq, Option.isNone_iff_eq_none]

/-- The copy engine prefers the first slot. -/
def Slot.ahead (x y : Slot) : Bool :=
  y.severity < x.severity || (y.severity == x.severity && x.order < y.order)

theorem Slot.ahead_iff (x y : Slot) :
    x.ahead y = true ↔ y.severity < x.severity ∨ y.severity = x.severity ∧ x.order < y.order := by
  unfold Slot.ahead
  simp only [Bool.or_eq_true, decide_eq_true_eq, Bool.and_eq_true, beq_iff_eq]

section
variable {s : State} {i : Fin 4}

theorem State.preferred_eq (s : State) :
    s.preferred = betterOf (fun i => (s.slot i).choosable) fun i j => (s.slot i).ahead (s.slot j) := by
  funext best i
  cases best <;> rfl

theorem State.chooseCopy_copying (h : ∃ i, (s.slot i).state = .copying) : s.chooseCopy = s := by
  obtain ⟨i, copying⟩ := h
  have some_ : ((List.finRange 4).any fun j => (s.slot j).state == .copying) = true :=
    List.any_eq_true.mpr ⟨i, List.mem_finRange i, beq_iff_eq.mpr copying⟩
  exact if_pos some_

theorem State.chooseCopy_eq (free : ∀ i, (s.slot i).state ≠ .copying) : s.chooseCopy =
    match (List.finRange 4).foldl s.preferred none with
    | none => s
    | some i =>
      let c := s.setSlot i { s.slot i with state := .copying }
      if (s.slot i).rowCount = 0 then c.makeHeader i .clipped else c.makeRead i := by
  refine if_neg fun h => ?_
  obtain ⟨i, -, copying⟩ := List.any_eq_true.mp h
  exact free i (beq_iff_eq.mp copying)

theorem State.chooseCopy_none (none_ : ∀ i, ¬((s.slot i).state = .queued ∧ (s.slot i).outcome = none)) : s.chooseCopy = s := by
  by_cases copying : ∃ i, (s.slot i).state = .copying
  · exact State.chooseCopy_copying copying
  · have fold : (List.finRange 4).foldl s.preferred none = none :=
      s.preferred_eq ▸ foldl_betterOf_none fun i _ => Bool.eq_false_iff.mpr fun h => none_ i ((Slot.choosable_iff _).mp h)
    rw [State.chooseCopy_eq (not_exists.mp copying), fold]

theorem State.chooseCopy_chosen (free : ∀ j, (s.slot j).state ≠ .copying)
    (ready : (s.slot i).state = .queued ∧ (s.slot i).outcome = none)
    (first : ∀ j, (s.slot j).state = .queued ∧ (s.slot j).outcome = none → j ≠ i →
      (s.slot j).severity < (s.slot i).severity ∨
        (s.slot j).severity = (s.slot i).severity ∧ (s.slot i).order < (s.slot j).order) : s.chooseCopy =
    let c := s.setSlot i { s.slot i with state := .copying }
    if (s.slot i).rowCount = 0 then c.makeHeader i .clipped else c.makeRead i := by
  have fold : (List.finRange 4).foldl s.preferred none = some i := by
    rw [s.preferred_eq]
    refine foldl_betterOf_eq (i := i) ((Slot.choosable_iff _).mpr ready) (List.mem_finRange i) none (fun _ h => (nomatch h)) fun j _ hj apart => ?_
    have behind := first j ((Slot.choosable_iff _).mp hj) apart
    refine ⟨(Slot.ahead_iff _ _).mpr behind, Bool.eq_false_iff.mpr fun ahead => ?_⟩
    have := (Slot.ahead_iff _ _).mp ahead
    omega
  rw [State.chooseCopy_eq free, fold]

end

/-! ### What the copy engine leaves of a slot -/

/-- The second slot is the first with its copy further on. -/
def Slot.Continues (x y : Slot) : Prop :=
  y = { x with state := y.state, outcome := y.outcome, readOutstanding := y.readOutstanding } ∧ (x.state ≠ .idle → y.state ≠ .idle)

theorem Slot.Continues.refl (x : Slot) : x.Continues x := ⟨rfl, id⟩

theorem Slot.Continues.trans {x y z : Slot} (h : x.Continues y) (g : y.Continues z) : x.Continues z := by
  obtain ⟨same, busy⟩ := h
  obtain ⟨again, still⟩ := g
  refine ⟨?_, still ∘ busy⟩
  rw [again, same]

/-- Every slot continues; the tiles and the counts of requests stay. -/
structure State.CopyGoesOn (s t : State) : Prop where
  slots : ∀ i, (s.slot i).Continues (t.slot i)
  tiles : t.evidence.tiles = s.evidence.tiles
  requests : t.evidence.requests = s.evidence.requests
  assigned : t.evidence.assigned = s.evidence.assigned

namespace State.CopyGoesOn

theorem refl (s : State) : s.CopyGoesOn s := ⟨fun _ => .refl _, rfl, rfl, rfl⟩

theorem trans {a b c : State} (h : a.CopyGoesOn b) (g : b.CopyGoesOn c) : a.CopyGoesOn c :=
  ⟨fun i => (h.slots i).trans (g.slots i), g.tiles.trans h.tiles, g.requests.trans h.requests, g.assigned.trans h.assigned⟩

theorem withOwn (s : State) (o : Own) : s.CopyGoesOn { s with own := o } := ⟨fun _ => .refl _, rfl, rfl, rfl⟩

theorem queued (s : State) (t : OwnTxn) : s.CopyGoesOn (s.queued t) := withOwn s _

theorem setSlot (s : State) (i : Fin 4) {x : Slot} (h : (s.slot i).Continues x) : s.CopyGoesOn (s.setSlot i x) := by
  refine ⟨fun j => ?_, rfl, rfl, rfl⟩
  rw [State.slot_setSlot]
  split
  · next same => exact same ▸ h
  · exact .refl _

theorem makeRead (s : State) (i : Fin 4) : s.CopyGoesOn (s.makeRead i) := by
  by_cases direct : s.joinsAtOnce
  · rw [State.makeRead_direct direct]
    exact (setSlot s i (x := { s.slot i with readOutstanding := true }) ⟨rfl, id⟩).trans (queued _ _)
  · unfold State.makeRead
    rw [State.engineMake_behind direct]
    exact withOwn s _

theorem makeHeader (s : State) (i : Fin 4) (o : Outcome) : s.CopyGoesOn (s.makeHeader i o) := by
  unfold State.makeHeader
  rw [State.engineMake_write _ _ rfl]
  exact (setSlot s i (x := { s.slot i with outcome := some o }) ⟨rfl, id⟩).trans (withOwn _ _)

theorem chooseCopy (s : State) : s.CopyGoesOn s.chooseCopy := by
  by_cases copying : ∃ i, (s.slot i).state = .copying
  · rw [State.chooseCopy_copying copying]
    exact .refl s
  · rw [State.chooseCopy_eq (not_exists.mp copying)]
    cases (List.finRange 4).foldl s.preferred none with
    | none => exact .refl s
    | some i =>
      have started : s.CopyGoesOn (s.setSlot i { s.slot i with state := .copying }) :=
        setSlot s i ⟨rfl, fun _ h => (nomatch h)⟩
      dsimp only
      split
      · exact started.trans (makeHeader _ _ _)
      · exact started.trans (makeRead _ _)

end State.CopyGoesOn

/-! ### A copy request (R150, R153 to R155) -/

/-- The slot that a request becomes QUEUED in. -/
def State.queuedSlot (s : State) (t : Fin 64) (q : CopyRequest) : Slot :=
  let r := copyRange s.globals (s.window q.window) (s.assembler q.window).lastCompleted q
  { state := .queued, severity := q.severity, cls := q.cls, face := q.face, firstTravel := q.firstTravel
    lastTravel := q.lastTravel, window := q.window, tile := t, poolEntry := q.poolEntry, order := s.evidence.nextOrder
    oldestLine := r.oldestLine, rowCount := r.rowCount, firstCell := r.firstCell, lastCell := r.lastCell
    byteOffset := r.byteOffset, rowBytes := r.rowBytes, clipped := r.clipped, rowsReturned := 0, rowPos := 0
    readOutstanding := false, outcome := none, readErrors := 0 }

/-- The state before the copy engine chooses. -/
def State.slotTaken (s : State) (i : Fin 4) (t : Fin 64) (q : CopyRequest) : State :=
  { s with evidence := { s.evidence with
      nextOrder := s.evidence.nextOrder + 1
      assigned := bump s.evidence.assigned
      slots := vset s.evidence.slots i (s.queuedSlot t q) } }

theorem State.assignSlot_eq (s : State) (i : Fin 4) (t : Fin 64) (q : CopyRequest) :
    s.assignSlot i t q = (s.slotTaken i t q).chooseCopy := rfl

/-- The state that has counted a request. -/
def State.asked (s : State) : State := { s with evidence := { s.evidence with requests := bump s.evidence.requests } }

/-- A tile of the pool is FREE. -/
def State.isFree (s : State) (t : Fin 64) : Prop := t.val < s.globals.tileCount ∧ s.tile t = .free

section
variable {s : State} {q : CopyRequest} {i : Fin 4} {t : Fin 64}

theorem State.idleSlot_lowest (idle : (s.slot i).state = .idle) (lowest : ∀ j, j < i → (s.slot j).state ≠ .idle) :
    s.asked.idleSlot = some i :=
  find?_finRange (beq_iff_eq.mpr idle) fun j low => beq_eq_false_iff_ne.mpr (lowest j low)

theorem State.idleSlot_some (idle : ∃ i, (s.slot i).state = .idle) : ∃ i, s.asked.idleSlot = some i := by
  obtain ⟨i, idle⟩ := idle
  refine Option.isSome_iff_exists.mp (List.find?_isSome.mpr ⟨i, List.mem_finRange i, beq_iff_eq.mpr idle⟩)

theorem State.idleSlot_none (busy : ∀ i, (s.slot i).state ≠ .idle) : s.asked.idleSlot = none :=
  List.find?_eq_none.mpr fun i _ h => busy i (beq_iff_eq.mp h)

theorem State.isFree_iff (s : State) (t : Fin 64) :
    (decide (t.val < s.globals.tileCount) && s.tile t == .free) = true ↔ s.isFree t := by
  unfold State.isFree
  rw [Bool.and_eq_true, decide_eq_true_eq, beq_iff_eq]

theorem State.freeTile_lowest (free : s.isFree t) (lowest : ∀ u, u < t → ¬s.isFree u) : s.asked.freeTile = some t :=
  find?_finRange ((s.isFree_iff t).mpr free) fun u low => Bool.eq_false_iff.mpr fun h => lowest u low ((s.isFree_iff u).mp h)

theorem State.freeTile_none (none_ : ∀ t, ¬s.isFree t) : s.asked.freeTile = none :=
  List.find?_eq_none.mpr fun t _ h => none_ t ((s.isFree_iff t).mp h)

/-- A request of a severity may pre-empt the slot (R153). -/
def Slot.mayPreEmpt (x : Slot) (severity : Nat) : Prop :=
  x.state = .queued ∧ x.outcome = none ∧ x.poolEntry ≠ none ∧ x.severity < severity

theorem Slot.preEmptable_iff (x : Slot) (severity : Nat) : x.preEmptable severity = true ↔ x.mayPreEmpt severity := by
  unfold Slot.preEmptable Slot.mayPreEmpt
  rw [Bool.and_eq_true, Bool.and_eq_true, Slot.choosable_iff, decide_eq_true_eq, Option.isSome_iff_ne_none, and_assoc, and_assoc]

/-- The first slot is the victim rather than the second. -/
def Slot.lesser (x y : Slot) : Bool :=
  x.severity < y.severity || (x.severity == y.severity && y.order < x.order)

theorem Slot.lesser_iff (x y : Slot) :
    x.lesser y = true ↔ x.severity < y.severity ∨ x.severity = y.severity ∧ y.order < x.order := by
  unfold Slot.lesser
  simp only [Bool.or_eq_true, decide_eq_true_eq, Bool.and_eq_true, beq_iff_eq]

theorem State.worseVictim_eq (s : State) (severity : Nat) : s.worseVictim severity =
    betterOf (fun i => (s.slot i).preEmptable severity) fun i j => (s.slot i).lesser (s.slot j) := by
  funext best i
  cases best <;> rfl

theorem State.victim_none {severity : Nat} (none_ : ∀ i, ¬(s.slot i).mayPreEmpt severity) : s.asked.victim severity = none := by
  unfold State.victim
  rw [State.worseVictim_eq]
  exact foldl_betterOf_none fun i _ => Bool.eq_false_iff.mpr fun h => none_ i ((Slot.preEmptable_iff _ _).mp h)

theorem State.victim_eq {severity : Nat} (may : (s.slot i).mayPreEmpt severity)
    (least : ∀ j, (s.slot j).mayPreEmpt severity → j ≠ i → (s.slot i).severity < (s.slot j).severity ∨
      (s.slot i).severity = (s.slot j).severity ∧ (s.slot j).order < (s.slot i).order) : s.asked.victim severity = some i := by
  unfold State.victim
  rw [State.worseVictim_eq]
  refine foldl_betterOf_eq (i := i) ((Slot.preEmptable_iff _ _).mpr may) (List.mem_finRange i) none (fun _ h => (nomatch h)) fun j _ hj apart => ?_
  have behind := least j ((Slot.preEmptable_iff _ _).mp hj) apart
  refine ⟨(Slot.lesser_iff _ _).mpr behind, Bool.eq_false_iff.mpr fun lesser => ?_⟩
  have : (s.slot j).lesser (s.slot i) = true := lesser
  rw [Slot.lesser_iff] at this
  omega

theorem State.requestCopy_off (off : s.globals.evidenceEnable ≠ 1) : s.requestCopy q =
    ((.noTile, none), { s with evidence := { s.evidence with evidenceOff := bump s.evidence.evidenceOff } }) := if_pos off

theorem State.requestCopy_on (on : s.globals.evidenceEnable = 1) : s.requestCopy q =
    match s.asked.idleSlot with
    | some i =>
      match s.asked.freeTile with
      | some t => ((.assigned, some t), ((s.asked.setTile t .filling).markDirty 1).assignSlot i t q)
      | none =>
        ((.noTile, none),
          State.raise { s.asked with evidence := { s.asked.evidence with noTile := bump s.evidence.noTile } } .tilesOut)
    | none =>
      match s.asked.victim q.severity with
      | some i => ((.assigned, some (s.slot i).tile), s.asked.preEmptSlot i q)
      | none => ((.busy, none), { s.asked with evidence := { s.asked.evidence with busy := bump s.evidence.busy } }) :=
  if_neg (not_not.mpr on)

/-- What the assignment of a FREE tile to an IDLE slot leaves. -/
theorem State.assignSlot_free (s : State) (i : Fin 4) (t : Fin 64) (q : CopyRequest) :
    let r := ((s.asked.setTile t .filling).markDirty 1).assignSlot i t q
    r.tile t = .filling ∧ (∀ u, u ≠ t → r.tile u = s.tile u) ∧ (r.slot i).state ≠ .idle ∧
      (s.queuedSlot t q).Continues (r.slot i) ∧ r.evidence.requests = bump s.evidence.requests ∧
      r.evidence.assigned = bump s.evidence.assigned := by
  intro r
  obtain ⟨u, hu⟩ : ∃ u, u = ((s.asked.setTile t .filling).markDirty 1).slotTaken i t q := ⟨_, rfl⟩
  have goes : u.CopyGoesOn r := hu ▸ .chooseCopy _
  have slot : u.slot i = s.queuedSlot t q := hu ▸ vget_vset_same _ _ _
  have tiles : u.evidence.tiles = vset s.evidence.tiles t .filling := hu ▸ rfl
  have tile (v : Fin 64) : r.tile v = vget (vset s.evidence.tiles t .filling) v :=
    congrArg (fun x => vget x v) (goes.tiles.trans tiles)
  have continued := goes.slots i
  rw [slot] at continued
  refine ⟨(tile t).trans (vget_vset_same _ _ _), fun v apart => ?_, continued.2 fun h => (nomatch h), continued,
    goes.requests.trans (hu ▸ rfl), goes.assigned.trans (hu ▸ rfl)⟩
  rw [tile, vget_vset, if_neg (Ne.symm apart)]
  rfl

/-- A pool entry told that its copy is pre-empted. -/
theorem State.markPreEmpted_eq (s : State) (p : Option Nat) (some_ : p ≠ none) : s.markPreEmpted p =
    { s with strands := vtab fun k =>
        { s.strand k with
          billet := { (s.strand k).billet with
            holdList := (s.strand k).billet.holdList.map fun x =>
              if p = some x.number then { x with finding := { x.finding with evidence := .preEmpted, tile := none } } else x } } } := by
  obtain ⟨n, rfl⟩ := Option.ne_none_iff_exists'.mp some_
  have told : PoolEntry.preEmpt n = fun x =>
      if some n = some x.number then { x with finding := { x.finding with evidence := .preEmpted, tile := none } } else x := by
    funext x
    unfold PoolEntry.preEmpt
    simp only [Option.some.injEq, eq_comm]
  unfold State.markPreEmpted Strand.preEmpt
  dsimp only
  rw [told]

end

end Sys2Proof.Machine

open Sys2Proof Sys2Proof.Machine

/-! ### The statements -/

/-- Settles O46: the line by the model's state before and after it, the result by the room in the queue. -/
theorem lineResultJoinsOrIsDropped : Obligations.LineResultJoinsOrIsDropped :=
  ⟨fun _ _ => ⟨State.processLine_ready, State.processLine_warmed, State.processLine_warming⟩, fun s r =>
    ⟨State.offerResult_joins, fun full => by
      rw [State.offerResult_dropped full]
      exact ⟨State.Settles.trans (.raise _ _) (.markDirty _ _), State.dirty_markDirty _ _ _ (.inr rfl)⟩⟩⟩

/-- Settles O50: the filter, the alert, the list and the request, each by its cases. -/
theorem findingIsFilteredAlertedAndHeld : Obligations.FindingIsFilteredAlertedAndHeld := by
  intro s f hit x y isHeld
  refine ⟨fun i => State.filterFinding_hit, State.filterFinding_none, fun low high worse => ?_, fun other => ?_,
    fun n place free lowest => ?_, fun full => ?_, fun src => ?_⟩
  · exact (State.alertFinding_qualifies ((qualifies_iff _ _).mpr ⟨low, high, worse⟩)).settles
  · refine State.alertFinding_other fun h => ?_
    obtain ⟨low, high, worse⟩ := (qualifies_iff _ _).mp h
    obtain off | above | less := other
    · exact absurd low (Nat.not_le.mpr (Nat.lt_one_iff.mpr off))
    · exact absurd high (Nat.not_le.mpr above)
    · exact absurd worse (Nat.not_le.mpr less)
  · have entry : s.freeEntry = some n := State.freeEntry_lowest place free lowest
    obtain ⟨front, behind, split, joined, low, high⟩ := joinHold_split { number := n, finding := f } y.holdList
    refine ⟨entry, front, behind, split, low, high, ?_⟩
    have held := (State.holdFinding_held (f := f) entry).settles
    rw [joined] at held
    exact held
  · have entry : s.freeEntry = none := State.freeEntry_full full
    exact ⟨entry, (State.holdFinding_tallied (f := f) entry).settles⟩
  · intro r g a answer
    have handled : s.handleFinding f src = (a.evidenceFinding g src).2.holdFinding (a.evidenceFinding g src).1 := rfl
    refine ⟨fun other => ?_, fun asks => ?_⟩
    · rw [handled, State.evidenceFinding_other other]
    · rw [handled, State.evidenceFinding_asks asks]

/-- Settles O51: the request by the slot and the tile that there are, the choice by the slots that are ready. -/
theorem copyRequestIsAnswered : Obligations.CopyRequestIsAnswered := by
  refine ⟨fun s q => ?requests, fun s i t q => rfl, fun s => ?chooses⟩
  case requests =>
    intro e free victim asked
    refine ⟨State.requestCopy_off, fun on idle none_ => ?_, fun i t on idle lowest free_ least => ?_,
      fun i on busy may least => ?_, fun on busy none_ => ?_⟩
    · obtain ⟨i, found⟩ := State.idleSlot_some idle
      rw [State.requestCopy_on on, found, State.freeTile_none none_]
      exact ⟨rfl, .raise _ _⟩
    · intro r
      have answered : r = ((.assigned, some t), ((s.asked.setTile t .filling).markDirty 1).assignSlot i t q) := by
        simp only [r]
        rw [State.requestCopy_on on, State.idleSlot_lowest idle lowest, State.freeTile_lowest free_ least]
      obtain ⟨filling, others, busy, ⟨same, -⟩, requests, assigned⟩ := s.assignSlot_free i t q
      rw [answered]
      refine ⟨rfl, filling, others, busy, ?_, ?_, ?_, ?_, ?_, ?_, requests, assigned⟩ <;> rw [same] <;> rfl
    · intro told ended
      have ⟨_, _, holds, _⟩ : (s.slot i).mayPreEmpt q.severity := may
      obtain ⟨p, c, same⟩ := told.releaseStep_same
      have told_ : (s.asked.markPreEmpted (s.slot i).poolEntry).setSlot i Slot.cleared = told := by
        rw [State.markPreEmpted_eq _ _ holds]
        rfl
      have counted : ended.evidence.preEmptions = e.preEmptions := by
        simp only [ended, same]
        rfl
      have passed : s.asked.preEmptSlot i q = State.assignSlot
          { ended with evidence := { ended.evidence with preEmptions := bump ended.evidence.preEmptions } } i
          (s.slot i).tile q := by
        unfold State.preEmptSlot
        dsimp only
        rw [show s.asked.slot i = s.slot i from rfl, told_]
      rw [State.requestCopy_on on, State.idleSlot_none busy, State.victim_eq may least]
      dsimp only
      rw [passed, counted]
      rfl
    · rw [State.requestCopy_on on, State.idleSlot_none busy, State.victim_none none_]
      rfl
  case chooses =>
    intro ready
    exact ⟨fun h => h.elim State.chooseCopy_copying State.chooseCopy_none, fun i => State.chooseCopy_chosen⟩

end

-- ==== The checks of the settings (R20, R24, R25, R46, R171) ====
section
/-!
PROOFS. Each check of the settings as the conditions that it stands for: the ranges of the fields, and the ranges of addresses that
may not share a byte.
-/
namespace Sys2Proof.Machine

/-! ### Ranges of addresses that share a byte (R24, R25) -/

/-- Two ranges, each a base and a size, share a byte. -/
def Shares (a n b m : Nat) : Prop := ∃ c, a ≤ c ∧ c < a + n ∧ b ≤ c ∧ c < b + m

theorem overlaps_iff_shares (a n b m : Nat) : overlaps a n b m = true ↔ Shares a n b m := by
  unfold Shares
  rw [overlaps_iff]
  constructor
  · rintro ⟨i, within, low, high⟩
    exact ⟨a + i, Nat.le_add_right a i, Nat.add_lt_add_left within a, low, high⟩
  · rintro ⟨c, above, below, low, high⟩
    exact ⟨c - a, by omega, by omega, by omega⟩

theorem shares_comm (a n b m : Nat) : Shares a n b m ↔ Shares b m a n :=
  ⟨fun ⟨c, above, below, low, high⟩ => ⟨c, low, high, above, below⟩, fun ⟨c, above, below, low, high⟩ =>
    ⟨c, low, high, above, below⟩⟩

theorem State.overlapsPart_iff (s : State) (base size : Nat) :
    s.overlapsPart base size = true ↔ Shares base size s.ctlBase (2 ^ 20) := overlaps_iff_shares _ _ _ _

theorem Globals.overlapsPool_iff (g : Globals) (base size : Nat) :
    g.overlapsPool base size = true ↔ Shares g.evidenceBase g.poolSize base size :=
  (overlaps_iff_shares _ _ _ _).trans (shares_comm _ _ _ _)

theorem Globals.meetsWindow_iff (g : Globals) (x : Window) : g.meetsWindow x = true ↔
    Shares g.evidenceBase g.poolSize x.base x.size ∨ x.remap = 1 ∧ Shares g.evidenceBase g.poolSize x.remapBase x.size := by
  unfold Globals.meetsWindow
  rw [Bool.or_eq_true, Bool.and_eq_true, beq_iff_eq, g.overlapsPool_iff, g.overlapsPool_iff]

/-! ### The Strand Settings (R46, R72, R87, R114, R131) -/

theorem inRange_iff (lo hi n : Nat) : inRange lo hi n = true ↔ lo ≤ n ∧ n ≤ hi := by
  unfold inRange
  rw [Bool.and_eq_true, decide_eq_true_eq, decide_eq_true_eq]

theorem StrandSettings.ok_iff (x : StrandSettings) : x.ok = true ↔
    ¬(x.incInt = 0 ∧ x.incFrac = 0) ∧ x.cutSource ≤ 3 ∧ 1 ≤ x.minPulseInterval ∧
    (1 ≤ x.holdTime ∧ x.holdTime ≤ 10000) ∧ (x.cutPeriod = 0 ∨ 256 ≤ x.cutPeriod ∧ x.cutPeriod ≤ 2 ^ 24) ∧
    (1 ≤ x.torchDistance ∧ x.torchDistance ≤ 2 ^ 24) ∧ x.minBilletLength ≤ 2 ^ 24 ∧
    1 ≤ x.deepContrast ∧ 1 ≤ x.gap ∧ 1 ≤ x.longMin ∧ (1 ≤ x.widthMax ∧ x.widthMax ≤ 512) ∧
    (1 ≤ x.transMinCells ∧ x.transMinCells ≤ 512) ∧ (1 ≤ x.markSpanCells ∧ x.markSpanCells ≤ 512) ∧
    (1 ≤ x.sevWidth ∧ x.sevWidth ≤ 512) ∧ (1 ≤ x.sevLength ∧ x.sevLength ≤ 2 ^ 24) ∧ 1 ≤ x.sevContrast ∧
    (1 ≤ x.missLimit ∧ x.missLimit ≤ 15) ∧ x.alertSeverity ≤ 3 ∧
    1 ≤ x.pitchMin ∧ x.pitchMin ≤ x.pitchMax ∧ x.pitchMin ≤ x.nominalPitch ∧ x.nominalPitch ≤ x.pitchMax ∧
    (1 ≤ x.alertTime ∧ x.alertTime ≤ 60000) := by
  unfold StrandSettings.ok
  simp only [Bool.and_eq_true, Bool.or_eq_true, bne_iff_ne, beq_iff_eq, decide_eq_true_eq, inRange_iff, not_and_or, ne_eq, and_assoc]

/-! ### The Window Table (R20, R24) -/

theorem Window.fieldsOk_iff (x : Window) : x.fieldsOk = true ↔
    x.enable ≤ 1 ∧ (12 ≤ x.sizeLog ∧ x.sizeLog ≤ 28) ∧ x.remap ≤ 1 ∧ x.pixelFormat ≤ 2 ∧ x.faceChannel ≤ 15 ∧
    x.mirror ≤ 1 ∧ x.base % x.size = 0 ∧ x.remapBase % x.size = 0 ∧ (17 ≤ x.ringLines ∧ x.ringLines ≤ 4096) ∧
    (256 ≤ x.pixelsPerLine ∧ x.pixelsPerLine ≤ 4096) ∧ x.pixelsPerLine % 8 = 0 ∧ x.stride % 64 = 0 ∧
    x.firstCell + 4 ≤ x.cells ∧ x.firstCell + 3 ≤ x.lastCell ∧ x.lastCell + 1 ≤ x.cells ∧
    x.lineBytes ≤ x.stride ∧ x.stride * x.ringLines ≤ x.size := by
  unfold Window.fieldsOk
  simp only [Bool.and_eq_true, beq_iff_eq, decide_eq_true_eq, and_assoc]

theorem windowEnabled_iff (m : List Host.Cell) (w : Fin 16) :
    Machine.windowEnabled m w = true ↔ Memory.read m (0x400 + w.val * 0x40) = 1 := beq_iff_eq

theorem enabledEither_iff (m m' : List Host.Cell) (w : Fin 16) : enabledEither m m' w = true ↔
    Memory.read m (0x400 + w.val * 0x40) = 1 ∨ Memory.read m' (0x400 + w.val * 0x40) = 1 := by
  unfold enabledEither
  rw [Bool.or_eq_true, windowEnabled_iff, windowEnabled_iff]

theorem clashes_iff (m : List Host.Cell) (w v : Fin 16) : clashes m w v = true ↔
    (Machine.window m w).faceChannel = (Machine.window m v).faceChannel ∨
      Shares (Machine.window m w).base (Machine.window m w).size (Machine.window m v).base (Machine.window m v).size := by
  unfold clashes
  rw [Bool.or_eq_true, beq_iff_eq, overlaps_iff_shares]

/-- No other entry that is enabled, or is being enabled, clashes with this one. -/
theorem all_apart_iff (m m' : List Host.Cell) (w : Fin 16) :
    ((List.finRange 16).all fun v => v == w || !enabledEither m m' v || !clashes m' w v) = true ↔
      ∀ v, v ≠ w → (Memory.read m (0x400 + v.val * 0x40) = 1 ∨ Memory.read m' (0x400 + v.val * 0x40) = 1) →
        let x := Machine.window m' w
        let y := Machine.window m' v
        x.faceChannel ≠ y.faceChannel ∧ ¬Shares x.base x.size y.base y.size := by
  rw [List.all_eq_true]
  refine ⟨fun h v apart on => ?_, fun h v _ => ?_⟩
  · have named := h v (List.mem_finRange v)
    rw [Bool.or_eq_true, Bool.or_eq_true, beq_iff_eq, Bool.not_eq_true', Bool.not_eq_true', ← Bool.not_eq_true,
      ← Bool.not_eq_true, enabledEither_iff, clashes_iff] at named
    exact not_or.mp ((named.resolve_left fun off => off.elim apart fun no => no on))
  · rw [Bool.or_eq_true, Bool.or_eq_true, beq_iff_eq, Bool.not_eq_true', Bool.not_eq_true', ← Bool.not_eq_true,
      ← Bool.not_eq_true, enabledEither_iff, clashes_iff]
    by_cases same : v = w
    · exact .inl (.inl same)
    · by_cases on : Memory.read m (0x400 + v.val * 0x40) = 1 ∨ Memory.read m' (0x400 + v.val * 0x40) = 1
      · exact .inr (not_or.mpr (h v same on))
      · exact .inl (.inr on)

theorem State.enableChecks_iff (s : State) (m : List Host.Cell) (w : Fin 16) :
    let x := Machine.window m w
    let g := Machine.globals m
    s.enableChecks m w = true ↔ x.fieldsOk = true ∧ 2 * g.guardLines < x.ringLines ∧
      (∀ v, v ≠ w → (Memory.read s.shadow (0x400 + v.val * 0x40) = 1 ∨ Memory.read m (0x400 + v.val * 0x40) = 1) →
        let y := Machine.window m v
        x.faceChannel ≠ y.faceChannel ∧ ¬Shares x.base x.size y.base y.size) ∧
      ¬Shares x.base x.size s.ctlBase (2 ^ 20) ∧ ¬g.meetsWindow x = true ∧
      (x.remap = 1 → ¬Shares x.remapBase x.size s.ctlBase (2 ^ 20)) := by
  intro x g
  have ranges : (¬Shares x.base x.size s.ctlBase (2 ^ 20) ∧ ¬Shares g.evidenceBase g.poolSize x.base x.size ∧
      ¬(x.remap = 1 ∧ (Shares x.remapBase x.size s.ctlBase (2 ^ 20) ∨
        Shares g.evidenceBase g.poolSize x.remapBase x.size))) ↔
      ¬Shares x.base x.size s.ctlBase (2 ^ 20) ∧ ¬g.meetsWindow x = true ∧
        (x.remap = 1 → ¬Shares x.remapBase x.size s.ctlBase (2 ^ 20)) := by
    rw [g.meetsWindow_iff]
    tauto
  rw [← ranges]
  unfold State.enableChecks
  simp only [Bool.and_eq_true, Bool.or_eq_true, Bool.not_eq_true', ← Bool.not_eq_true, beq_iff_eq, decide_eq_true_eq,
    State.overlapsPart_iff, Globals.overlapsPool_iff, all_apart_iff, and_assoc]
  rfl

/-! ### The Global Settings (R25, R171) -/

/-- Every entry that a test names lies apart from the pool, its ring longer than twice the guard. -/
theorem all_guarded_iff (m : List Host.Cell) (named : Fin 16 → Bool) :
    ((List.finRange 16).all fun w => !named w ||
      (!(Machine.globals m).meetsWindow (Machine.window m w) &&
        2 * (Machine.globals m).guardLines < (Machine.window m w).ringLines)) = true ↔
      ∀ w, named w = true → ¬(Machine.globals m).meetsWindow (Machine.window m w) = true ∧
        2 * (Machine.globals m).guardLines < (Machine.window m w).ringLines := by
  simp only [List.all_eq_true, List.mem_finRange, true_implies, Bool.or_eq_true, Bool.not_eq_true', Bool.and_eq_true,
    decide_eq_true_eq, ← Bool.not_eq_true, ← imp_iff_not_or]

theorem crossChecks_iff (m m' : List Host.Cell) : crossChecks m m' = true ↔ ∀ w : Fin 16,
    (Memory.read m (0x400 + w.val * 0x40) = 1 ∨ Memory.read m' (0x400 + w.val * 0x40) = 1) →
    ¬(Machine.globals m').meetsWindow (Machine.window m' w) = true ∧
      2 * (Machine.globals m').guardLines < (Machine.window m' w).ringLines :=
  (all_guarded_iff m' (enabledEither m m')).trans (forall_congr' fun w => imp_congr (enabledEither_iff m m' w) Iff.rfl)

theorem State.globalChecks_iff (s : State) (m : List Host.Cell) :
    let g := Machine.globals m
    s.globalChecks m = true ↔
      g.evidenceEnable ≤ 1 ∧ g.tileSizeLog ≤ 4 ∧ g.tileCount ≤ 64 ∧ (g.evidenceEnable = 1 → 1 ≤ g.tileCount) ∧
      g.evidenceBase % 2 ^ 20 = 0 ∧ g.evidenceBase + g.poolSize ≤ 2 ^ 40 ∧
      ¬Shares g.evidenceBase g.poolSize s.ctlBase (2 ^ 20) ∧ (8 ≤ g.guardLines ∧ g.guardLines ≤ 2048) ∧
      (∀ w : Fin 16, Memory.read m (0x400 + w.val * 0x40) = 1 →
        ¬g.meetsWindow (Machine.window m w) = true ∧ 2 * g.guardLines < (Machine.window m w).ringLines) ∧
      g.marginLines ≤ 15 ∧ g.marginCells ≤ 15 ∧ (1 ≤ g.holdLimit ∧ g.holdLimit ≤ 1000) ∧
      (1 ≤ g.statusPeriod ∧ g.statusPeriod ≤ 1000) ∧ Memory.field m 0x108 2 = 0 := by
  intro g
  have entries := (all_guarded_iff m (Machine.windowEnabled m)).trans
    (forall_congr' fun w => imp_congr (windowEnabled_iff m w) Iff.rfl)
  have pool : (g.evidenceEnable ≤ 1 ∧ (g.evidenceEnable = 0 ∨ 1 ≤ g.tileCount)) ↔
      g.evidenceEnable ≤ 1 ∧ (g.evidenceEnable = 1 → 1 ≤ g.tileCount) := by omega
  have get : Machine.getIndex m = Memory.field m 0x108 2 := rfl
  unfold State.globalChecks
  simp only [Bool.and_eq_true, entries]
  simp only [Bool.or_eq_true, Bool.not_eq_true', ← Bool.not_eq_true, beq_iff_eq, decide_eq_true_eq, inRange_iff,
    State.overlapsPart_iff, and_assoc, get]
  constructor
  · rintro ⟨one, size, count, some_, rest⟩
    exact ⟨one, size, count, (pool.mp ⟨one, some_⟩).2, rest⟩
  · rintro ⟨one, size, count, some_, rest⟩
    exact ⟨one, size, count, (pool.mpr ⟨one, some_⟩).2, rest⟩

end Sys2Proof.Machine

open Sys2Proof Sys2Proof.Machine

/-! ### The statement -/

/-- Settles O54: each check is the conjunction of its tests. -/
theorem settingsRangesAreChecked : Obligations.SettingsRangesAreChecked := by
  unfold Obligations.SettingsRangesAreChecked
  intro share pool meetsPool
  have meets (g : Globals) (x : Window) : g.meetsWindow x = true ↔ meetsPool g x := g.meetsWindow_iff x
  refine ⟨StrandSettings.ok_iff, fun s m w => ?_, fun s m => ?_, fun m m' => ?_⟩
  · intro x g size cells lineBytes
    refine (s.enableChecks_iff m w).trans ?_
    rw [Window.fieldsOk_iff, meets]
    exact Iff.rfl
  · intro g
    refine (s.globalChecks_iff m).trans ?_
    simp only [meets]
    exact Iff.rfl
  · intro g
    refine (crossChecks_iff m m').trans ?_
    simp only [meets]
    exact Iff.rfl

end

-- ==== The checks of Control Page writes (R24 to R26, R41, R46, R47, R128, R170 to R178) ====
section
/-!
PROOFS. What decides a Control Page write: each area's check as the tests it makes in their order, over the bytes that the write
covers. Then the writes of one byte or one word, as these tests see them.
-/
namespace Sys2Proof.Machine

/-! ### The first reason (R175) -/

theorem firstReason_failIf (b : Bool) (r : Reason) (o : Option Reason) :
    firstReason (failIf b r) o = if b = true then some r else o := by
  cases b <;> rfl

theorem firstReason_eq (a b : Option Reason) : firstReason a b = [a, b].findSome? id := by
  cases a <;> cases b <;> rfl

theorem firstOf_eq {α : Type} (f : α → Option Reason) (l : List α) : firstOf f l = (l.map f).findSome? id := by
  induction l with
  | nil => rfl
  | cons a rest ih =>
    rw [firstOf, ih, List.map_cons, List.findSome?_cons]
    cases f a <;> rfl

/-- The reason of several areas one behind another is the first that one of them gives. -/
theorem findSome?_cons_id (a : Option Reason) (l : List (Option Reason)) :
    (a :: l).findSome? id = firstReason a (l.findSome? id) := by
  cases a <;> rfl

theorem findSome?_append_id (l m : List (Option Reason)) :
    (l ++ m).findSome? id = firstReason (l.findSome? id) (m.findSome? id) := by
  rw [List.findSome?_append]
  cases l.findSome? id <;> rfl

theorem firstReason_assoc (a b c : Option Reason) : firstReason (firstReason a b) c = firstReason a (firstReason b c) := by
  cases a <;> rfl

/-! ### The bytes that a write covers (R174) -/

theorem covers_iff (cells : List Host.Cell) (off n : Nat) :
    covers cells off n = true ↔ ∃ c ∈ cells, off ≤ c.1 ∧ c.1 < off + n := by
  unfold covers
  simp only [List.any_eq_true, Bool.and_eq_true, decide_eq_true_eq]

section
variable (s : State) (cells : List Host.Cell)

/-! ### The settings areas (R24 to R26, R46, R68, R128, R170 to R173, R176) -/

theorem State.checkGlobal_eq :
    let m := s.shadow
    let m' := merged m cells
    let given : Option Byte := (cells.find? fun c => c.1 == 0).map (·.2)
    s.checkGlobal cells =
      if ¬∃ c ∈ cells, 0 ≤ c.1 ∧ c.1 < 0 + 0x100 then none
      else if Memory.read m 0 = 1 ∧ ∃ c ∈ cells, 1 ≤ c.1 ∧ c.1 < 1 + 0xFF then some .entryLocked
      else if (given.any fun b => decide (2 ≤ b.toNat)) = true then some .checkFailed
      else match s.part with
        | .pass =>
          if crossChecks m m' = true ∧ (Memory.read m' 0 = 1 → s.globalChecks m' = true) then none else some .checkFailed
        | .starting => if given = some 0 then some .stateForbids else none
        | .run => if given = some 0 ∧ s.quiet = false then some .stateForbids else none := by
  intro m m' given
  have one (m : List Host.Cell) : (Machine.globals m).enable = 1 ↔ Memory.read m 0 = 1 := globals_enable_iff m 1
  have covered : covers cells 0 0x100 = true ↔ ∃ c ∈ cells, 0 ≤ c.1 ∧ c.1 < 0 + 0x100 := covers_iff _ _ _
  have byte : byteGiven cells 0 = given := rfl
  unfold State.checkGlobal badEnable
  simp only [firstReason_failIf, Bool.not_eq_true', ← Bool.not_eq_true, covered, Bool.and_eq_true, beq_iff_eq, State.globals,
    one, covers_iff, byte]
  cases s.part with
  | pass =>
    refine if_congr Iff.rfl rfl (if_congr Iff.rfl rfl (if_congr Iff.rfl rfl ?_))
    by_cases ok : crossChecks m m' = true ∧ (Memory.read m' 0 = 1 → s.globalChecks m' = true)
    · obtain ⟨cross, all⟩ := ok
      have fails : (!crossChecks m m' || ((Machine.globals m').enable == 1 && !s.globalChecks m')) = false := by
        simp only [cross, Bool.not_true, Bool.false_or, Bool.and_eq_false_iff, beq_eq_false_iff_ne, ne_eq, one,
          Bool.not_eq_false']
        exact Classical.or_iff_not_imp_left.mpr fun on => all (not_not.mp on)
      rw [if_pos ⟨cross, all⟩]
      exact congrArg (failIf · .checkFailed) fails
    · have fails : (!crossChecks m m' || ((Machine.globals m').enable == 1 && !s.globalChecks m')) = true := by
        simp only [Bool.or_eq_true, Bool.not_eq_true', ← Bool.not_eq_true, Bool.and_eq_true, beq_iff_eq, one]
        tauto
      rw [if_neg ok]
      exact congrArg (failIf · .checkFailed) fails
  | starting =>
    refine if_congr Iff.rfl rfl (if_congr Iff.rfl rfl (if_congr Iff.rfl rfl ?_))
    exact if_congr beq_iff_eq rfl rfl
  | run =>
    refine if_congr Iff.rfl rfl (if_congr Iff.rfl rfl (if_congr Iff.rfl rfl ?_))
    exact if_congr (by rw [Bool.and_eq_true, beq_iff_eq, Bool.not_eq_true', Bool.not_eq_true]) rfl rfl

theorem State.checkUnlocked_eq :
    let get := Memory.field (merged s.shadow cells) 0x108 2
    s.checkUnlocked cells =
      if ¬∃ c ∈ cells, 0x100 ≤ c.1 ∧ c.1 < 0x100 + 0x10 then none
      else if 1023 < get then some .checkFailed
      else if s.part ≠ .pass ∧ (s.ring.put + 1024 - s.getIndex) % 1024 < (s.ring.put + 1024 - get) % 1024 then
        some .getRange
      else none := by
  intro get
  have covered : covers cells unlockedAt 0x10 = true ↔ ∃ c ∈ cells, 0x100 ≤ c.1 ∧ c.1 < 0x100 + 0x10 := covers_iff _ _ _
  have value : Machine.getIndex (merged s.shadow cells) = get := rfl
  unfold State.checkUnlocked
  simp only [firstReason_failIf, Bool.not_eq_true', ← Bool.not_eq_true, covered, value, decide_eq_true_eq]
  refine if_congr Iff.rfl rfl (if_congr Iff.rfl rfl (if_congr ?_ rfl rfl))
  rw [Bool.and_eq_true, bne_iff_ne]
  exact and_congr_right fun _ => decide_eq_true_iff

theorem State.checkWindow_eq (w : Fin 16) :
    let m := s.shadow
    let m' := merged m cells
    let a := windowAt w
    s.checkWindow cells w =
      if ¬∃ c ∈ cells, a ≤ c.1 ∧ c.1 < a + 0x40 then none
      else if Memory.read m a = 1 ∧ ∃ c ∈ cells, a + 1 ≤ c.1 ∧ c.1 < a + 1 + 0x3F then some .entryLocked
      else if (((cells.find? fun c => c.1 == a).map (·.2)).any fun b => decide (2 ≤ b.toNat)) = true then some .checkFailed
      else if ¬Memory.read m a = 1 ∧ Memory.read m' a = 1 ∧ s.enableChecks m' w = false then some .checkFailed
      else none := by
  intro m m' a
  have on (m : List Host.Cell) : Machine.windowEnabled m w = true ↔ Memory.read m a = 1 := windowEnabled_iff m w
  unfold State.checkWindow badEnable byteGiven
  simp only [firstReason_failIf]
  simp only [failIf, Bool.not_eq_true', ← Bool.not_eq_true, covers_iff, Bool.and_eq_true,
    State.windowEnabled, on, and_assoc]
  rfl

theorem State.checkFace_eq (k : Fin 16) : s.checkFace cells k =
    if (∃ c ∈ cells, 0x800 + k.val * 0x40 ≤ c.1 ∧ c.1 < 0x800 + k.val * 0x40 + 0x40) ∧ s.feeding k ≠ none then
      some .entryLocked
    else none := by
  unfold State.checkFace failIf
  refine if_congr ?_ rfl rfl
  rw [Bool.and_eq_true, covers_iff, Option.isSome_iff_ne_none]
  exact Iff.rfl

theorem State.checkStrand_eq (k : Fin 4) : s.checkStrand cells k =
    if (∃ c ∈ cells, 0xC00 + k.val * 0x80 ≤ c.1 ∧ c.1 < 0xC00 + k.val * 0x80 + 0x80) ∧ (s.unit k).state ≠ .idle then
      some .entryLocked
    else none := by
  unfold State.checkStrand failIf
  refine if_congr ?_ rfl rfl
  rw [Bool.and_eq_true, covers_iff, bne_iff_ne]
  exact Iff.rfl

theorem State.checkFilter_eq (i : Fin 8) :
    let m := s.shadow
    let m' := merged m cells
    let a := filterAt i
    s.checkFilter cells i =
      if ¬∃ c ∈ cells, a ≤ c.1 ∧ c.1 < a + 0x10 then none
      else if Memory.read m a = 1 ∧ ∃ c ∈ cells, a + 1 ≤ c.1 ∧ c.1 < a + 1 + 0xF then some .entryLocked
      else if (((cells.find? fun c => c.1 == a).map (·.2)).any fun b => decide (2 ≤ b.toNat)) = true then some .checkFailed
      else if ¬Memory.read m a = 1 ∧ Memory.read m' a = 1 ∧ 2 < Memory.field m' (a + 1) 1 then some .checkFailed
      else none := by
  intro m m' a
  have on (m : List Host.Cell) : filterEnabled m i = true ↔ Memory.read m a = 1 := beq_iff_eq
  have action : (filterEntry m' i).action = Memory.field m' (a + 1) 1 := rfl
  unfold State.checkFilter badEnable byteGiven
  simp only [firstReason_failIf]
  simp only [failIf, Bool.not_eq_true', ← Bool.not_eq_true, covers_iff, Bool.and_eq_true, on, and_assoc,
    decide_eq_true_eq]
  rfl

/-! ### The action words (R47, R177) -/

/-- The bytes that a write gives an action word. -/
def wordGiven (cells : List Host.Cell) (n : Nat) : List Byte :=
  (cells.filter fun c => decide (0x200 + n * 8 ≤ c.1 ∧ c.1 < 0x208 + n * 8)).map (·.2)

theorem wordCover_eq (n : Fin 7) : wordCover cells n =
    if wordGiven cells n.val = [] then .untouched
    else if (wordGiven cells n.val).length ≠ 8 then .inPart
    else .whole (actionWord n (wordGiven cells n.val)) := by
  have inWord : (cells.filter fun c => actionAt n.val ≤ c.1 && c.1 < actionAt n.val + 8) =
      cells.filter fun c => decide (0x200 + n.val * 8 ≤ c.1 ∧ c.1 < 0x208 + n.val * 8) := by
    refine List.filter_congr fun c _ => ?_
    rw [← Bool.decide_and]
    exact decide_eq_decide.mpr (by unfold actionAt; omega)
  unfold wordCover wordGiven
  simp only [inWord, List.isEmpty_iff, List.map_eq_nil_iff, List.length_map, ne_eq, ite_not]

/-- The words are decided one after another. -/
theorem checkActions_cons (n : Fin 7) (rest : List (Fin 7)) (u : State) :
    let word := wordGiven cells n.val
    State.checkActions cells (n :: rest) u =
      if word = [] then State.checkActions cells rest u
      else if word.length ≠ 8 then some .checkFailed
      else if u.checkAction (actionWord n word) = none then State.checkActions cells rest (u.performAction (actionWord n word))
      else u.checkAction (actionWord n word) := by
  intro word
  have cover : wordCover cells n = _ := wordCover_eq cells n
  rw [State.checkActions]
  by_cases none_ : word = []
  · rw [if_pos none_, cover, if_pos none_]
  · rw [if_neg none_]
    by_cases whole : word.length = 8
    · rw [if_neg (not_not.mpr whole), cover, if_neg none_, if_neg (not_not.mpr whole)]
      dsimp only
      cases u.checkAction (actionWord n word) with
      | none => rfl
      | some r => rfl
    · rw [if_pos whole, cover, if_neg none_, if_pos whole]

theorem wordGiven_untouched (none_ : coversActions cells = false) (n : Fin 7) : wordGiven cells n.val = [] := by
  refine List.map_eq_nil_iff.mpr (List.filter_eq_nil_iff.mpr fun c mem inWord => ?_)
  refine Bool.eq_false_iff.mp none_ ((covers_iff _ _ _).mpr ⟨c, mem, ?_⟩)
  have := of_decide_eq_true inWord
  unfold actionAt
  omega

/-- A write that covers no byte of the action words passes them. -/
theorem checkActions_untouched (none_ : coversActions cells = false) (l : List (Fin 7)) (u : State) :
    State.checkActions cells l u = none := by
  induction l generalizing u with
  | nil => rfl
  | cons n rest ih =>
    rw [checkActions_cons, if_pos (wordGiven_untouched cells none_ n)]
    exact ih u

theorem State.checkControl_eq : s.checkControl cells =
    ([s.checkGlobal cells, s.checkUnlocked cells, State.checkActions cells (List.finRange 7) (s.mergeControl cells)] ++
      (List.finRange 16).map (s.checkWindow cells) ++ (List.finRange 16).map (s.checkFace cells) ++
      (List.finRange 4).map (s.checkStrand cells) ++ (List.finRange 8).map (s.checkFilter cells)).findSome? id := by
  have actions : (if coversActions cells then State.checkActions cells (List.finRange 7) (s.mergeControl cells) else none) =
      State.checkActions cells (List.finRange 7) (s.mergeControl cells) := by
    split
    · rfl
    · next none_ => exact (checkActions_untouched cells (Bool.eq_false_iff.mpr none_) _ _).symm
  have last (o : Option Reason) : firstReason o none = o := by cases o <;> rfl
  unfold State.checkControl
  rw [actions]
  simp only [firstOf_eq, findSome?_append_id, findSome?_cons_id, List.findSome?_nil, firstReason_assoc, last]

end

/-! ### Arguments (R41, R47) -/

section
variable {s : State} {b : Byte}

theorem State.checkStart_of {k : Fin 4} (arg : strandArg b = some k) : s.checkStart b =
    if s.part ≠ .run ∨ (s.unit k).state ≠ .idle then some .stateForbids
    else if (s.settings k).ok = false then some .checkFailed
    else none := by
  unfold State.checkStart
  rw [arg]
  dsimp only
  rw [firstReason_failIf]
  refine if_congr ?_ rfl (if_congr ?_ rfl rfl)
  · rw [Bool.or_eq_true, bne_iff_ne, bne_iff_ne]
  · rw [Bool.not_eq_true']

theorem State.checkMoving_of {k : Fin 4} (arg : strandArg b = some k) : s.checkMoving b =
    if (s.unit k).state ≠ .casting ∧ (s.unit k).state ≠ .held then some .stateForbids else none := by
  unfold State.checkMoving
  rw [arg]
  refine if_congr ?_ rfl rfl
  rw [Bool.not_eq_true', ← Bool.not_eq_true, StrandUnit.moving_iff, not_or]

theorem State.checkRestart_of {k : Fin 16} (arg : channelArg b = some k) : s.checkRestart b =
    if (s.face k).head.state ≠ .off then some .stateForbids else none := by
  unfold State.checkRestart
  rw [arg]
  exact if_congr bne_iff_ne rfl rfl

theorem State.checkStart_high (high : 4 ≤ b.toNat) : s.checkStart b = some .checkFailed := by
  unfold State.checkStart
  rw [strandArg_none b high]

theorem State.checkMoving_high (high : 4 ≤ b.toNat) : s.checkMoving b = some .checkFailed := by
  unfold State.checkMoving
  rw [strandArg_none b high]

theorem State.checkRestart_high (high : 16 ≤ b.toNat) : s.checkRestart b = some .checkFailed := by
  unfold State.checkRestart
  rw [channelArg_none b high]

theorem State.checkStart_eq (s : State) (b : Byte) : s.checkStart b =
    if h : b.toNat < 4 then
      if s.part ≠ .run ∨ (s.unit ⟨b.toNat, h⟩).state ≠ .idle then some .stateForbids
      else if (s.settings ⟨b.toNat, h⟩).ok = false then some .checkFailed
      else none
    else some .checkFailed := by
  by_cases low : b.toNat < 4
  · rw [State.checkStart_of (strandArg_some b low), dif_pos low]
  · rw [State.checkStart_high (Nat.not_lt.mp low), dif_neg low]

theorem State.checkMoving_eq (s : State) (b : Byte) : s.checkMoving b =
    if h : b.toNat < 4 then
      if (s.unit ⟨b.toNat, h⟩).state ≠ .casting ∧ (s.unit ⟨b.toNat, h⟩).state ≠ .held then some .stateForbids else none
    else some .checkFailed := by
  by_cases low : b.toNat < 4
  · rw [State.checkMoving_of (strandArg_some b low), dif_pos low]
  · rw [State.checkMoving_high (Nat.not_lt.mp low), dif_neg low]

theorem State.checkRestart_eq (s : State) (b : Byte) : s.checkRestart b =
    if h : b.toNat < 16 then if (s.face ⟨b.toNat, h⟩).head.state ≠ .off then some .stateForbids else none
    else some .checkFailed := by
  by_cases low : b.toNat < 16
  · rw [State.checkRestart_of (channelArg_some b low), dif_pos low]
  · rw [State.checkRestart_high (Nat.not_lt.mp low), dif_neg low]

/-- What decides an action word is its first byte. -/
theorem State.checkAction_eq (u : State) (n : Fin 7) (word : List Byte) :
    u.checkAction (actionWord n word) =
      if n.val = 0 then u.checkStart (word.headD 0)
      else if n.val = 1 ∨ n.val = 2 then u.checkMoving (word.headD 0)
      else if n.val = 3 then u.checkRestart (word.headD 0)
      else none := by
  match n with
  | 0 => rfl
  | 1 => rfl
  | 2 => rfl
  | 3 => rfl
  | 4 => rfl
  | 5 => rfl
  | 6 => rfl

end

/-! ### The write of one byte, and of one word -/

section
variable {s : State} {m : List Host.Cell} {a : Nat} {b : Byte}

/-- A byte other than 0 written is read, of any list of bytes. -/
theorem Memory.read_write_same (nonzero : b ≠ 0) : Memory.read (Memory.write m a b) a = b := by
  induction m with
  | nil =>
    unfold Memory.write
    rw [if_neg nonzero]
    exact if_pos rfl
  | cons c rest ih =>
    unfold Memory.write
    obtain below | here | above := Nat.lt_trichotomy a c.1
    · rw [if_pos below, if_neg nonzero]
      exact if_pos rfl
    · rw [if_neg (Nat.not_lt.mpr here.ge), if_pos here, if_neg nonzero]
      exact if_pos rfl
    · rw [if_neg (Nat.lt_asymm above), if_neg above.ne']
      exact (if_neg above.ne).trans ih

theorem merged_byte (b : Byte) (kept : shadowed a = true) : merged m [(a, b)] = Memory.write m a b := by
  unfold merged
  rw [List.filter_cons_of_pos (by exact kept)]
  rfl

theorem covered_byte (b : Byte) (off n : Nat) :
    (∃ c ∈ [((a, b) : Host.Cell)], off ≤ c.1 ∧ c.1 < off + n) ↔ off ≤ a ∧ a < off + n := by
  simp only [List.mem_singleton, exists_eq_left]

theorem given_byte (b : Byte) : (([((a, b) : Host.Cell)].find? fun c => c.1 == a).map (·.2)) = some b := by
  rw [List.find?_cons_of_pos (by exact beq_self_eq_true a)]
  rfl

/-- A Global Enable byte of 0 or 1 in PASS. -/
theorem State.checkGlobal_pass (pass : s.part = .pass) (b : Byte) (low : b.toNat ≤ 1) :
    s.checkGlobal [(0, b)] =
      if crossChecks s.shadow (Memory.write s.shadow 0 b) = true ∧
          (Memory.read (Memory.write s.shadow 0 b) 0 = 1 → s.globalChecks (Memory.write s.shadow 0 b) = true) then none
      else some .checkFailed := by
  rw [State.checkGlobal_eq, merged_byte b rfl, given_byte, pass]
  dsimp only
  rw [if_neg (not_not.mpr ((covered_byte b 0 0x100).mpr (by omega))),
    if_neg fun h => absurd ((covered_byte b 1 0xFF).mp h.2) (by omega),
    if_neg (by simpa using Nat.lt_succ_of_le low)]

theorem State.checkGlobal_starting (starting : s.part = .starting) (b : Byte) (low : b.toNat ≤ 1) :
    s.checkGlobal [(0, b)] = if b = 0 then some .stateForbids else none := by
  rw [State.checkGlobal_eq, given_byte, starting]
  dsimp only
  rw [if_neg (not_not.mpr ((covered_byte b 0 0x100).mpr (by omega))),
    if_neg fun h => absurd ((covered_byte b 1 0xFF).mp h.2) (by omega),
    if_neg (by simpa using Nat.lt_succ_of_le low)]
  exact if_congr Option.some_inj rfl rfl

theorem State.checkGlobal_run (run : s.part = .run) (b : Byte) (low : b.toNat ≤ 1) :
    s.checkGlobal [(0, b)] = if b = 0 ∧ s.quiet = false then some .stateForbids else none := by
  rw [State.checkGlobal_eq, given_byte, run]
  dsimp only
  rw [if_neg (not_not.mpr ((covered_byte b 0 0x100).mpr (by omega))),
    if_neg fun h => absurd ((covered_byte b 1 0xFF).mp h.2) (by omega),
    if_neg (by simpa using Nat.lt_succ_of_le low)]
  exact if_congr (and_congr_left fun _ => Option.some_inj) rfl rfl

theorem windowAt_shadowed (w : Fin 16) : shadowed (windowAt w) = true := by
  unfold shadowed windowAt
  simp only [Bool.or_eq_true, Bool.and_eq_true, decide_eq_true_eq]
  omega

theorem filterAt_shadowed (i : Fin 8) : shadowed (filterAt i) = true := by
  unfold shadowed filterAt
  simp only [Bool.or_eq_true, Bool.and_eq_true, decide_eq_true_eq]
  omega

/-- The Enable byte of a Window Table entry, written to 0 or 1. -/
theorem State.checkWindow_byte (w : Fin 16) (b : Byte) (low : b.toNat ≤ 1) :
    let m' := Memory.write s.shadow (windowAt w) b
    s.checkWindow [(windowAt w, b)] w =
      if s.windowEnabled w = false ∧ Machine.windowEnabled m' w = true ∧ s.enableChecks m' w = false then some .checkFailed
      else none := by
  have inEntry : windowAt w ≤ windowAt w ∧ windowAt w < windowAt w + 0x40 := ⟨le_refl _, by omega⟩
  have first : ¬(windowAt w + 1 ≤ windowAt w ∧ windowAt w < windowAt w + 1 + 0x3F) := by omega
  have given := given_byte (a := windowAt w) b
  rw [State.checkWindow_eq, merged_byte b (windowAt_shadowed w)]
  dsimp only
  rw [if_neg (not_not.mpr ((covered_byte b _ 0x40).mpr inEntry)),
    if_neg fun h => first ((covered_byte b _ 0x3F).mp h.2),
    if_neg (by rw [given]; simpa using Nat.lt_succ_of_le low)]
  refine if_congr (and_congr ?_ (and_congr (windowEnabled_iff _ w).symm Iff.rfl)) rfl rfl
  rw [← Bool.not_eq_true]
  exact not_congr (windowEnabled_iff _ w).symm

theorem filterEnabled_iff (m : List Host.Cell) (i : Fin 8) :
    filterEnabled m i = true ↔ Memory.read m (0xE00 + i.val * 0x10) = 1 := beq_iff_eq

/-- The Enable byte of a Filter Table entry, written to 0 or 1. -/
theorem State.checkFilter_byte (i : Fin 8) (b : Byte) (low : b.toNat ≤ 1) :
    s.checkFilter [(filterAt i, b)] i =
      if filterEnabled s.shadow i = false ∧ filterEnabled (Memory.write s.shadow (filterAt i) b) i = true ∧
          2 < (s.filter i).action then some .checkFailed
      else none := by
  have inEntry : filterAt i ≤ filterAt i ∧ filterAt i < filterAt i + 0x10 := ⟨le_refl _, by omega⟩
  have first : ¬(filterAt i + 1 ≤ filterAt i ∧ filterAt i < filterAt i + 1 + 0xF) := by omega
  have given := given_byte (a := filterAt i) b
  have action : Memory.field (Memory.write s.shadow (filterAt i) b) (filterAt i + 1) 1 = (s.filter i).action := by
    unfold Memory.field Memory.readBytes
    rw [Memory.read_write_other _ _ _ _ (by omega)]
    rfl
  rw [State.checkFilter_eq, merged_byte b (filterAt_shadowed i)]
  rw [if_neg (not_not.mpr ((covered_byte b _ 0x10).mpr inEntry)),
    if_neg fun h => first ((covered_byte b _ 0xF).mp h.2),
    if_neg (by rw [given]; simpa using Nat.lt_succ_of_le low)]
  refine if_congr (and_congr ?_ (and_congr (filterEnabled_iff _ i).symm ?_)) rfl rfl
  · rw [← Bool.not_eq_true]
    exact not_congr (filterEnabled_iff _ i).symm
  · rw [action]

/-- The number in the two bytes of a word. -/
theorem word_bytes (v : BitVec 16) : (v.setWidth 8).toNat + 256 * ((v >>> 8).setWidth 8).toNat = v.toNat := by
  simp only [BitVec.toNat_setWidth, BitVec.toNat_ushiftRight, Nat.shiftRight_eq_div_pow]
  omega

theorem field_two (m : List Host.Cell) (a : Nat) :
    Memory.field m a 2 = (Memory.read m a).toNat + 256 * (Memory.read m (a + 1)).toNat := by
  simp only [Memory.field, Memory.readBytes, leNat]
  omega

/-- A word written reads back as the word. -/
theorem field_writeAll_word (wf : Memory.wf m = true) (v : BitVec 16) :
    Memory.field (Memory.writeAll m (wordCells a v)) a 2 = v.toNat := by
  have written : Memory.writeAll m (wordCells a v) =
    Memory.write (Memory.write m a (v.setWidth 8)) (a + 1) ((v >>> 8).setWidth 8) := rfl
  rw [field_two, written, Memory.read_write_other _ _ _ _ (by omega), Memory.read_write _ _ _ _ wf, if_pos rfl,
    Memory.read_write _ _ _ _ (Memory.wf_write _ _ _ wf), if_pos rfl]
  exact word_bytes v

/-- A word written leaves every other byte. -/
theorem read_writeAll_word {n : Nat} (v : BitVec 16) (low : n ≠ a) (high : n ≠ a + 1) :
    Memory.read (Memory.writeAll m (wordCells a v)) n = Memory.read m n :=
  (Memory.read_write_other _ _ _ _ high.symm).trans (Memory.read_write_other _ _ _ _ low.symm)

/-- The get index written. -/
theorem State.checkUnlocked_get (wf : Memory.wf s.shadow = true) (g : BitVec 16) : s.checkUnlocked (wordCells getAt g) =
    if 1023 < g.toNat then some .checkFailed
    else if s.part ≠ .pass ∧ (s.ring.put + 1024 - s.getIndex) % 1024 < (s.ring.put + 1024 - g.toNat) % 1024 then
      some .getRange
    else none := by
  have given : Memory.field (merged s.shadow (wordCells getAt g)) 0x108 2 = g.toNat := field_writeAll_word wf g
  have covered : ∃ c ∈ wordCells getAt g, 0x100 ≤ c.1 ∧ c.1 < 0x100 + 0x10 :=
    ⟨_, List.mem_cons_self, by unfold getAt; omega⟩
  rw [State.checkUnlocked_eq]
  rw [if_neg (not_not.mpr covered), given]

end

end Sys2Proof.Machine

open Sys2Proof Sys2Proof.Machine

/-! ### The statement -/

/-- Settles O53: each check as its tests in their order, each refusal by the test that fails. -/
theorem controlWritesAreRefusedByName : Obligations.ControlWritesAreRefusedByName := by
  refine ⟨fun s cells => ?checks, fun s low flight => ?commands⟩
  case checks =>
    intro m m' covered given bad on
    have after : merged s.shadow cells = m' := merged_eq _ cells
    refine ⟨s.checkControl_eq cells, ?_, ?_, fun w => ?_, s.checkFace_eq cells, s.checkStrand_eq cells, fun i => ?_,
      fun u => rfl, fun n rest u => ?_⟩
    · have decided := s.checkGlobal_eq cells
      dsimp only at decided
      rw [after] at decided
      exact decided
    · have decided := s.checkUnlocked_eq cells
      rw [after] at decided
      exact decided
    · have decided := s.checkWindow_eq cells w
      dsimp only at decided
      rw [after] at decided
      exact decided
    · have decided := s.checkFilter_eq cells i
      dsimp only at decided
      rw [after] at decided
      exact decided
    · intro word b reason
      have decided : u.checkAction (actionWord n word) = reason := by
        rw [State.checkAction_eq, State.checkStart_eq, State.checkMoving_eq, State.checkRestart_eq]
      exact decided ▸ checkActions_cons cells n rest u
  case commands =>
    have refused {c : Instr} {off : Nat} {r : Reason} {f : State → State} {e : State → Option Reason}
        (he : exec c s = .next (s.event fun t => t.control off (e t) f)) (hr : e s.opened = some r) :
        Answers c s (State.controlRefused s r off) := .of_control_refused s he low flight hr
    have idleStops (k : Fin 4) (idle : (s.unit k).state = .idle ∨ (s.unit k).state = .stopping) :
        s.opened.checkMoving (BitVec.ofNat 8 k.val) = some .stateForbids := by
      rw [State.checkMoving_of (strandArg_ofNat k), if_pos]
      obtain idle | stopping := idle
      · exact ⟨fun h => (nomatch idle.symm.trans h), fun h => (nomatch idle.symm.trans h)⟩
      · exact ⟨fun h => (nomatch stopping.symm.trans h), fun h => (nomatch stopping.symm.trans h)⟩
    refine ⟨fun a high => ⟨refused rfl (State.checkStart_high high), refused rfl (State.checkMoving_high high),
        refused rfl (State.checkMoving_high high)⟩, fun a high => refused rfl (State.checkRestart_high high),
      fun k bad => refused rfl ((State.checkStart_of (strandArg_ofNat k)).trans (if_pos bad)), fun k run idle bad => ?_,
      fun k idle => ⟨refused rfl (idleStops k idle), refused rfl (idleStops k idle)⟩,
      fun k on => refused rfl ((State.checkRestart_of (channelArg_ofNat k)).trans (if_pos on)), fun pass bad => ?_,
      fun pass bad wf => ?_, fun w off wf bad => ?_, fun i off bad wf => ?_, fun starting => ?_, fun run busy => ?_,
      fun g high wf => refused rfl ((State.checkUnlocked_get (s := s.opened) wf g).trans (if_pos high)),
      fun g low_ wf on passes => ?_⟩
    · refine refused rfl ((State.checkStart_of (strandArg_ofNat k)).trans ((if_neg ?_).trans (if_pos bad)))
      exact not_or.mpr ⟨not_not.mpr run, not_not.mpr idle⟩
    · refine refused rfl ((State.checkGlobal_pass (s := s.opened) pass 1 (by decide)).trans (if_neg fun ok => ?_))
      exact Bool.false_ne_true (bad.symm.trans (ok.2 (Memory.read_write_same (by decide))))
    · refine refused rfl ((State.checkGlobal_pass (s := s.opened) pass 0 (by decide)).trans (if_neg fun ok => ?_))
      exact Bool.false_ne_true (bad.symm.trans ok.1)
    · have on : Machine.windowEnabled (Memory.write s.shadow (windowAt w) 1) w = true :=
        (windowEnabled_iff _ w).mpr (Memory.read_write_same (by decide))
      exact refused rfl ((State.checkWindow_byte (s := s.opened) w 1 (by decide)).trans (if_pos ⟨off, on, bad⟩))
    · have on : filterEnabled (Memory.write s.shadow (filterAt i) 1) i = true :=
        (filterEnabled_iff _ i).mpr (Memory.read_write_same (by decide))
      exact refused rfl ((State.checkFilter_byte (s := s.opened) i 1 (by decide)).trans (if_pos ⟨off, on, bad⟩))
    · exact refused rfl ((State.checkGlobal_starting (s := s.opened) starting 0 (by decide)).trans (if_pos rfl))
    · exact refused rfl ((State.checkGlobal_run (s := s.opened) run 0 (by decide)).trans (if_pos ⟨rfl, busy⟩))
    · exact refused rfl ((State.checkUnlocked_get (s := s.opened) wf g).trans
        ((if_neg (Nat.not_lt.mpr low_)).trans (if_pos ⟨on, passes⟩)))

end

-- ==== Bytes taken and actions performed (R41, R62, R128, R149, R167, R176, R178) ====
section
/-!
PROOFS. The Control Page writes that every part state takes. A word written changes the shadow and, of the marks, those of the block
that shows it; an action is its own change of the state.
-/
namespace Sys2Proof.Machine

/-! ### Writes that are taken -/

theorem Answers.of_taken {s b : State} {c : Instr} {off : Nat} {f : State → State} {e : State → Option Reason}
    (he : exec c s = .next (s.event fun t => t.control off (e t) f)) (low : s.resetLow = false)
    (flight : s.path.controlInFlight = none) (ok : e s.opened = none) (hb : f s.opened = b) : Answers c s b :=
  .of_control_taken s he low flight ok (hb ▸ .refl _)

/-- The event of a write that is taken settles its effect, and notes what the effect has marked or changed. -/
theorem State.control_event {s : State} {off : Nat} {f : State → State} {e : State → Option Reason} (low : s.resetLow = false)
    (flight : s.path.controlInFlight = none) (ok : e s.opened = none) :
    (f s.opened).Settles (s.event fun t => t.control off (e t) f) ∧
      ∀ b, ((f s.opened).mark b).sequence = (s.mark b).sequence →
        ((f s.opened).mark b).dirty = true ∨ blockChanged s.opened (f s.opened) b = true →
        s.noted (s.event fun t => t.control off (e t) f) b := by
  have taken : s.opened.control off (e s.opened) f = f s.opened := by
    rw [ok]
    exact State.control_taken _ _ _ flight
  refine ⟨?_, fun b same marked => State.noted_event s _ b low ?_ ?_⟩
  · have settles := s.event_settles (fun t => t.control off (e t) f) low
    rwa [taken] at settles
  · rwa [taken]
  · rwa [taken]

/-! ### The published fields of a block -/

theorem blockChanged_part (old new : State) : blockChanged old new 1 = true ↔ old.partPublished ≠ new.partPublished := bne_iff_ne

theorem blockChanged_strand (old new : State) (k : Fin 4) :
    blockChanged old new (strandBlock k) = true ↔ (old.strand k).published ≠ (new.strand k).published := by
  have number : (strandBlock k).val = 2 + k.val := rfl
  have zero : ¬(strandBlock k).val = 0 := by omega
  have one : ¬(strandBlock k).val = 1 := by omega
  have strand : (strandBlock k).val < 6 := by omega
  have index : (⟨(strandBlock k).val - 2, by omega⟩ : Fin 4) = k :=
    Fin.ext (show (strandBlock k).val - 2 = k.val by omega)
  unfold blockChanged
  rw [if_neg zero, if_neg one, dif_pos strand]
  dsimp only
  rw [index]
  exact bne_iff_ne

/-! ### The bytes of the shadow (R128, R149, R176) -/

section
variable {s : State}

theorem State.filterOn_disabled {i : Fin 8} (off : filterEnabled s.shadow i = false) :
    s.filterOn i = (s.writeShadow (filterAt i) 1).enableFilter i := if_neg (Bool.eq_false_iff.mp off)

theorem State.filterOn_enabled {i : Fin 8} (on : filterEnabled s.shadow i = true) :
    s.filterOn i = s.writeShadow (filterAt i) 1 := if_pos on

/-- A shadow taken marks block 0 where it changes the cause-enable mask, and no other block. -/
theorem State.takeShadow_marked (s : State) (m : List Host.Cell) :
    State.Marked { s with shadow := m } (s.takeShadow m) ∧
      (∀ b, ((s.takeShadow m).mark b).sequence = (s.mark b).sequence) ∧
      (s.causeMask ≠ State.causeMask { s with shadow := m } → ((s.takeShadow m).mark 0).dirty = true) := by
  unfold State.takeShadow
  dsimp only
  by_cases same : State.causeMask { s with shadow := m } = s.causeMask
  · rw [if_pos same]
    exact ⟨.refl _, fun _ => rfl, fun changed => absurd same.symm changed⟩
  · rw [if_neg same]
    refine ⟨.markDirty _ _, fun b => State.markDirty_sequence _ _ _, fun _ => State.dirty_markDirty _ _ _ (.inr rfl)⟩

/-- A word written to the shadow. -/
theorem State.word_event {off a : Nat} {v : BitVec 16} {e : State → Option Reason} (low : s.resetLow = false)
    (flight : s.path.controlInFlight = none) (ok : e s.opened = none) :
    let m := Memory.writeAll s.shadow (wordCells a v)
    let t := s.event fun t => t.control off (e t) fun u => u.takeShadow (Memory.writeAll u.shadow (wordCells a v))
    t.shadow = m ∧ State.Settles { s.opened with shadow := t.shadow } t ∧
      (s.causeMask ≠ State.causeMask { s with shadow := m } → s.noted t 0) ∧
      (s.getIndex ≠ Machine.getIndex m → s.noted t 1) := by
  intro m t
  obtain ⟨marked, sequence, dirty⟩ := s.opened.takeShadow_marked m
  obtain ⟨settles, notes⟩ := State.control_event (off := off) (e := e)
    (f := fun u => u.takeShadow (Memory.writeAll u.shadow (wordCells a v))) low flight ok
  have whole := marked.settles.trans settles
  have shadow : t.shadow = m := congrArg State.shadow whole.same
  refine ⟨shadow, shadow.symm ▸ whole, fun changed => notes 0 (sequence 0) (.inl (dirty changed)), fun changed =>
    notes 1 (sequence 1) (.inr ((blockChanged_part _ _).mpr fun same => changed ?_))⟩
  have index := congrArg (fun x => x.1.getD 1 0) same
  have new : (s.opened.takeShadow m).getIndex = Machine.getIndex m :=
    congrArg Machine.getIndex (State.takeShadow_shadow _ _)
  exact (index : s.getIndex = (s.opened.takeShadow m).getIndex).trans new

theorem causeMask_word (wf : Memory.wf s.shadow = true) (v : BitVec 16) :
    State.causeMask { s with shadow := Memory.writeAll s.shadow (wordCells maskAt v) } = v := by
  unfold State.causeMask
  rw [show Memory.field (Memory.writeAll s.shadow (wordCells maskAt v)) maskAt 2 = v.toNat from field_writeAll_word wf v]
  rw [BitVec.ofNat_toNat, BitVec.setWidth_eq]

theorem getIndex_word (wf : Memory.wf s.shadow = true) (v : BitVec 16) :
    Machine.getIndex (Memory.writeAll s.shadow (wordCells getAt v)) = v.toNat := field_writeAll_word wf v

/-! ### The actions (R41, R62, R167, R178) -/

/-- A VIEW flag that is SET follows the view level, and no other changes. -/
theorem StrandUnit.ackView_eq (u : StrandUnit) : u.ackView =
    if u.viewFlag = .set then { u with viewFlag := if u.viewActive then .acked else .clear } else u := by
  unfold StrandUnit.ackView
  by_cases set : u.viewFlag = .set
  · rw [if_pos set, set]
    cases u.viewActive <;> rfl
  · rw [if_neg set]
    cases flag : u.viewFlag with
    | set => exact absurd flag set
    | acked =>
      dsimp only
      rw [← flag]
    | clear =>
      dsimp only
      rw [← flag]

theorem State.ackView_eq (s : State) (mask : Byte) : s.ackView mask =
    { s with strands := vtab fun k =>
        if mask.getLsbD k.val ∧ (s.unit k).viewFlag = .set then
          { s.strand k with unit := { s.unit k with viewFlag := if (s.unit k).viewActive then .acked else .clear } }
        else s.strand k } := by
  have acknowledged : (fun k : Fin 4 =>
      if mask.getLsbD k.val then { s.strand k with unit := (s.unit k).ackView } else s.strand k) = fun k =>
      if mask.getLsbD k.val ∧ (s.unit k).viewFlag = .set then
        { s.strand k with unit := { s.unit k with viewFlag := if (s.unit k).viewActive then .acked else .clear } }
      else s.strand k := by
    funext k
    rw [StrandUnit.ackView_eq]
    by_cases named : mask.getLsbD k.val = true
    · by_cases set : (s.unit k).viewFlag = .set
      · have both : mask.getLsbD k.val = true ∧ (s.unit k).viewFlag = .set := ⟨named, set⟩
        rw [if_pos named, if_pos set, if_pos both]
      · rw [if_pos named, if_neg set, if_neg fun h => set h.2]
        rfl
    · rw [if_neg named, if_neg fun h => named h.1]
  unfold State.ackView
  rw [acknowledged]

/-- A strand whose flag is SET and that the mask names has it changed. -/
theorem State.ackView_published {mask : Byte} {k : Fin 4} (named : mask.getLsbD k.val = true)
    (set : (s.unit k).viewFlag = .set) : (s.strand k).published ≠ ((s.ackView mask).strand k).published := by
  intro same
  have flag : (s.strand k).unit.viewFlag = ((s.ackView mask).strand k).unit.viewFlag := congrArg (fun x => x.1.viewFlag) same
  have new : (s.ackView mask).strand k =
      { s.strand k with unit := { s.unit k with viewFlag := if (s.unit k).viewActive then .acked else .clear } } := by
    rw [State.ackView_eq]
    exact (vget_vtab _ _).trans (if_pos ⟨named, set⟩)
  rw [new] at flag
  have kept := set.symm.trans flag
  dsimp only at kept
  split at kept
  · exact (nomatch kept)
  · exact (nomatch kept)

/-- A named cause that was pending marks block 0. -/
theorem State.acknowledge_marked (s : State) (mask : BitVec 16) :
    State.Marked
      { s with causes := { s.causes with
          pending := s.causes.pending &&& ~~~mask.setWidth 14
          posted := s.causes.posted &&& ~~~mask.setWidth 14
          carried := s.causes.carried &&& ~~~mask.setWidth 14 } } (s.acknowledge mask) ∧
      (∀ b, ((s.acknowledge mask).mark b).sequence = (s.mark b).sequence) ∧
      (s.causes.pending &&& mask.setWidth 14 ≠ 0 → ((s.acknowledge mask).mark 0).dirty = true) := by
  unfold State.acknowledge
  dsimp only
  by_cases none_ : s.causes.pending &&& mask.setWidth 14 = 0
  · rw [if_pos none_]
    exact ⟨.refl _, fun _ => rfl, fun some_ => absurd none_ some_⟩
  · rw [if_neg none_]
    exact ⟨.markDirty _ _, fun b => State.markDirty_sequence _ _ _, fun _ => State.dirty_markDirty _ _ _ (.inr rfl)⟩

/-- A bit of the causes is left where the mask does not name it. -/
theorem getLsbD_unnamed (v : BitVec 14) (mask : BitVec 16) (c : Cause) :
    (v &&& ~~~mask.setWidth 14).getLsbD c.bit = true ↔ v.getLsbD c.bit = true ∧ mask.getLsbD c.bit = false := by
  simp only [BitVec.getLsbD_and, BitVec.getLsbD_not, BitVec.getLsbD_setWidth, c.bit_lt, decide_true, Bool.true_and,
    Bool.and_eq_true, Bool.not_eq_true']

end

end Sys2Proof.Machine

open Sys2Proof Sys2Proof.Machine

/-! ### The statements -/
/-- Settles O56: the byte or the word by whether it changes what its block shows. -/
theorem shadowBytesAreTaken : Obligations.ShadowBytesAreTaken := by
  refine ⟨fun s i low flight wf => ?bytes, fun s low flight wf => ?words⟩
  case bytes =>
    intro a
    have off : filterEnabled (Memory.write s.shadow (filterAt i) 0) i = false := by
      refine Bool.eq_false_iff.mpr fun on => ?_
      have zero : Memory.read (Memory.write s.shadow (filterAt i) 0) (filterAt i) = 0 := by
        rw [Memory.read_write _ _ _ _ wf, if_pos rfl]
      exact absurd (zero.symm.trans ((filterEnabled_iff _ i).mp on)) (by decide)
    refine ⟨fun disabled action => ?_, fun enabled => ?_, ?_⟩
    · refine .of_taken rfl low flight ((State.checkFilter_byte (s := s.opened) i 1 (by decide)).trans (if_neg ?_))
        (State.filterOn_disabled (s := s.opened) disabled)
      exact fun h => absurd h.2.2 (Nat.not_lt.mpr action)
    · refine .of_taken rfl low flight ((State.checkFilter_byte (s := s.opened) i 1 (by decide)).trans (if_neg ?_))
        (State.filterOn_enabled (s := s.opened) enabled)
      exact fun h => Bool.false_ne_true (h.1.symm.trans enabled)
    · refine .of_taken rfl low flight ((State.checkFilter_byte (s := s.opened) i 0 (by decide)).trans (if_neg ?_)) rfl
      exact fun h => Bool.false_ne_true (off.symm.trans h.2.1)
  case words =>
    refine ⟨fun mask => ?_, fun g range passes => ?_⟩
    · obtain ⟨shadow, settles, noted, -⟩ := State.word_event (s := s) (off := maskAt) (a := maskAt) (v := mask)
        (e := fun _ => none) low flight rfl
      refine ⟨_, rfl, settles, ?_, fun n first second => ?_, fun changed => noted ?_⟩
      · exact (congrArg (fun m => State.causeMask { s with shadow := m }) shadow).trans (causeMask_word wf mask)
      · exact (congrArg (Memory.read · n) shadow).trans (read_writeAll_word mask first second)
      · rwa [causeMask_word wf]
    · have ok : s.opened.checkUnlocked (wordCells getAt g) = none := by
        rw [State.checkUnlocked_get (s := s.opened) wf, if_neg (Nat.not_lt.mpr range), if_neg]
        exact fun h => passes.elim h.1 (Nat.not_le.mpr h.2)
      obtain ⟨shadow, settles, -, noted⟩ := State.word_event (s := s) (off := getAt) (a := getAt) (v := g)
        (e := fun t => t.checkUnlocked (wordCells getAt g)) low flight ok
      refine ⟨_, rfl, settles, ?_, fun n first second => ?_, fun changed => noted ?_⟩
      · exact (congrArg Machine.getIndex shadow).trans (getIndex_word wf g)
      · exact (congrArg (Memory.read · n) shadow).trans (read_writeAll_word g first second)
      · rwa [getIndex_word wf]

/-- Settles O57: each action is taken and is its own change of the state. -/
theorem actionsTakeEffect : Obligations.ActionsTakeEffect := by
  refine ⟨fun s mask low flight => ?view, fun s k low flight off => ?restart, fun s mask low flight => ?release,
    fun s mask low flight => ?causes⟩
  case view =>
    obtain ⟨settles, notes⟩ := State.control_event (s := s) (off := actionAt 6) (e := fun _ => none)
      (f := fun u => u.ackView mask) low flight rfl
    refine ⟨_, rfl, ?_, fun k named set => notes _ rfl (.inr ((blockChanged_strand _ _ k).mpr ?_))⟩
    · rw [State.ackView_eq] at settles
      exact settles
    · exact State.ackView_published (s := s.opened) named set
  case restart =>
    exact .of_taken rfl low flight (s.opened.checkRestart_none (channelArg_ofNat k) off)
      (s.opened.onChannelArg_some (channelArg_ofNat k) _)
  case release =>
    intro freed
    have same : (fun i : Fin 64 => decide (i.val < s.globals.tileCount) && mask.getLsbD i.val && s.tile i == .ready) = freed := by
      funext i
      simp only [freed, Bool.and_comm (decide _)]
    refine .of_taken rfl low flight rfl ?_
    unfold State.releaseTiles
    dsimp only
    rw [show s.opened.globals.tileCount = s.globals.tileCount from rfl]
    exact congrArg (fun f => { s.opened with evidence := { s.evidence with
      tiles := vtab fun i => if f i then .free else s.tile i
      released := bumpBy ((List.finRange 64).filter f).length s.evidence.released } }) same
  case causes =>
    obtain ⟨marked, sequence, dirty⟩ := s.opened.acknowledge_marked mask
    obtain ⟨settles, notes⟩ := State.control_event (s := s) (off := actionAt 5) (e := fun _ => none)
      (f := fun u => u.acknowledge mask) low flight rfl
    have whole := marked.settles.trans settles
    refine ⟨_, rfl, whole, fun some_ => notes 0 (sequence 0) (.inl (dirty some_)), ?_⟩
    rw [State.irqAsserted_iff, whole.same]
    refine exists_congr fun c => ?_
    rw [show State.causeMask _ = s.causeMask from rfl]
    dsimp only
    rw [getLsbD_unnamed, getLsbD_unnamed]
    tauto

end

-- ==== The part's state and the windows (R26 to R28, R69, R98, R165, R169 to R173) ====
section
/-!
PROOFS. What Global Enable does to the part, and what the enable and the disable of a window do to its face: the effect of each as an
equation, and the check that lets the write of its one byte pass.
-/
namespace Sys2Proof.Machine

/-! ### The entry to STARTING (R172) -/

/-- The zero records that are queued change the own traffic and their own count alone. -/
theorem State.queueZeros_same (n : Nat) (granted : Bool) (s : State) :
    ∃ o z, State.queueZeros n granted s = { s with own := o, zeroToQueue := z } := by
  induction n generalizing granted s with
  | zero => exact ⟨s.own, s.zeroToQueue, rfl⟩
  | succ n ih =>
    unfold State.queueZeros
    split
    · split
      · obtain ⟨o, z, rest⟩ := ih false (State.pushOwn { s with zeroToQueue := s.zeroToQueue - 1 }
          { tag := .zeroRecord, addr := BitVec.ofNat 40 (s.zeroAddress (16 - s.zeroToQueue)), count := 64, data := zeroBytes 64 })
        refine ⟨o, z, rest.trans ?_⟩
        unfold State.pushOwn
        split <;> rfl
      · unfold State.beginWait
        split
        · exact ⟨s.own, s.zeroToQueue, rfl⟩
        · exact ⟨_, s.zeroToQueue, rfl⟩
    · exact ⟨s.own, s.zeroToQueue, rfl⟩

/-- The part as it is in STARTING, before the zero records are queued. -/
def State.started (s : State) : State :=
  { s.mapMarks BlockMarks.atStarting with
    part := .starting
    statusTimer := some (s.timeBase + 1000 * s.globals.statusPeriod)
    ring := { s.ring with put := 0, writesPending := 0 }
    evidence := { s.evidence with tiles := Vector.replicate 64 .free }
    strands := vtab fun k => (s.strand k).atStarting
    zeroToQueue := 16
    zeroUnanswered := 16 }

theorem State.enterStarting_eq (s : State) : ∃ o z, s.enterStarting = { s.started with own := o, zeroToQueue := z } := by
  have entered : s.enterStarting = State.queueZeros 16 false s.started := by
    unfold State.enterStarting State.started
    rw [milliseconds_eq]
    rfl
  rw [entered]
  exact State.queueZeros_same _ _ _

/-- Every block is marked, with its first-write mark. -/
theorem State.enterStarting_mark (s : State) (b : Fin 22) : s.enterStarting.mark b = (s.mark b).atStarting := by
  obtain ⟨o, z, entered⟩ := s.enterStarting_eq
  rw [entered]
  exact State.mapMarks_mark s _ b

theorem State.globalOn_pass {s : State} (pass : s.part = .pass) : s.globalOn = (s.writeShadow 0 1).enterStarting := if_pos pass

theorem State.globalOn_other {s : State} (other : s.part ≠ .pass) : s.globalOn = s.writeShadow 0 1 := if_neg other

theorem State.globalOff_run {s : State} (run : s.part = .run) : s.globalOff = (s.writeShadow 0 0).enterPass := if_pos run

theorem State.globalOff_other {s : State} (other : s.part ≠ .run) : s.globalOff = s.writeShadow 0 0 := if_neg other

/-- Settings that R171 takes let Global Enable be written to 1 (R25, R171). -/
theorem State.checkGlobal_on {s : State} (pass : s.part = .pass) (ok : s.globalChecks (Memory.write s.shadow 0 1) = true) :
    s.checkGlobal [(0, 1)] = none := by
  have entries (w : Fin 16) : Machine.windowEnabled s.shadow w = Machine.windowEnabled (Memory.write s.shadow 0 1) w := by
    unfold Machine.windowEnabled
    rw [Memory.read_write_other _ _ _ _ (by unfold windowAt; omega)]
  exact (State.checkGlobal_pass pass 1 (by decide)).trans (if_pos ⟨s.crossChecks_of_globalChecks _ _ ok entries, fun _ => ok⟩)

/-- The status period lies behind Global Enable. -/
theorem statusPeriod_write (m : List Host.Cell) (b : Byte) :
    (Machine.globals (Memory.write m 0 b)).statusPeriod = (Machine.globals m).statusPeriod := by
  have first : (Machine.globals m).statusPeriod = Memory.field m 0x12 2 := rfl
  have second : (Machine.globals (Memory.write m 0 b)).statusPeriod = Memory.field (Memory.write m 0 b) 0x12 2 := rfl
  rw [first, second, field_two, field_two, Memory.read_write_other _ _ _ _ (by omega),
    Memory.read_write_other _ _ _ _ (by omega)]

/-- The end of an event leaves every first-write mark as the effect of a write taken has set it. -/
theorem State.control_firstWrite {s : State} {off : Nat} {f : State → State} {e : State → Option Reason}
    (low : s.resetLow = false) (flight : s.path.controlInFlight = none) (ok : e s.opened = none) (b : Fin 22) :
    ((s.event fun t => t.control off (e t) f).mark b).firstWrite = ((f s.opened).mark b).firstWrite := by
  unfold State.event
  rw [low]
  refine (State.settled_firstWrite _ _ b).trans ?_
  dsimp only
  rw [ok, State.control_taken s.opened _ _ flight]

/-! ### A release step with no write held (R13) -/

theorem State.releaseStep_none {s : State} (none_ : s.path.held = []) : s.releaseStep = s := by
  have path : ({ s.path with held := [] } : Path) = s.path := by rw [← none_]
  unfold State.releaseStep State.startTimers
  rw [none_]
  dsimp only [List.length_nil, State.releaseFronts]
  rw [none_, List.map_nil, path]

/-! ### The enable and the disable of a window (R27, R28, R69, R98, R165) -/

/-- The model at a window enable, by the view level. -/
theorem Model.atEnable_eq (blocked : Bool) (m : Model) : m.atEnable blocked =
    { m with
      state := if blocked then .suspended else .warmUp
      warmUp := if blocked then m.warmUp else 0
      forView := blocked, forHead := false, lastStamp := none } := by
  cases blocked <;> rfl

/-- The state whose window's face has been set, before it is told uncovered. -/
def State.faceEnabled (s : State) (w : Fin 16) : State :=
  let k := (s.window w).channel
  let x := s.face k
  let blocked := (s.unit (strandOf k)).viewActive
  { s with
    assemblers := vset s.assemblers w .reset
    faces := vset s.faces k
      { x with
        head := { state := .active, errors := 0, warning := false, goodRun := 0 }
        capture := .zero
        counts := .zero
        tracks := { TrackCounts.zero with openTracks := x.tracks.openTracks }
        model := { x.model with
          state := if blocked then .suspended else .warmUp
          warmUp := if blocked then x.model.warmUp else 0
          forView := blocked, forHead := false, lastStamp := none } } }

theorem State.enableWindow_eq (s : State) (w : Fin 16) :
    s.enableWindow w = ((s.faceEnabled w).uncoverFace (s.window w).channel).markFace (s.window w).channel := by
  unfold State.enableWindow
  dsimp only
  rw [Model.atEnable_eq]
  rfl

/-- The face's head and model DISABLED, the interruption done. -/
def State.faceDisabled (s : State) (w : Fin 16) : State :=
  let k := (s.window w).channel
  let i := State.interruptFace { s with assemblers := vset s.assemblers w .reset } k
  let y := i.face k
  { i with
    faces := vset i.faces k
      { y with
        head := { state := .disabled, errors := 0, warning := false, goodRun := 0 }
        model := { y.model with state := .disabled, forView := false, forHead := false } } }

/-- A slot's window is the one given, and the slot is live. -/
def State.feedsCopy (s : State) (w : Fin 16) (j : Fin 4) : Bool := (s.slot j).live && (s.slot j).window == w

/-- The slots of a window that end with it, in ascending number. -/
theorem State.abortWindow_eq (s : State) (w : Fin 16) : s.abortWindow w =
    State.releaseStep (((List.finRange 4).filter (s.feedsCopy w)).foldl (fun u j => u.abortSlot j .aborted) s) := by
  unfold State.abortWindow
  refine congrArg State.releaseStep (State.abortWhere_eq _ _ (fun t i j apart => ?_) _ (List.nodup_finRange 4) s)
  rw [t.abortSlot_slot_other _ apart]

theorem State.disableWindow_eq (s : State) (w : Fin 16) :
    s.disableWindow w = ((State.releaseStep (((List.finRange 4).filter ((s.faceDisabled w).feedsCopy w)).foldl
      (fun u j => u.abortSlot j .aborted) (s.faceDisabled w))).uncoverFace (s.window w).channel).markFace
        (s.window w).channel := by
  have disabled : s.disableWindow w =
    (((s.faceDisabled w).abortWindow w).uncoverFace (s.window w).channel).markFace (s.window w).channel := rfl
  rw [disabled, State.abortWindow_eq]

section
variable {s : State} {w : Fin 16}

/-- With no track of the face OPEN its interruption leaves its results stale (R98). -/
theorem State.interruptFace_quiet {k : Fin 16} (none_ : ∀ i t, s.track i = some t → t.face ≠ k) :
    s.interruptFace k = { s with faces := vset s.faces k { s.face k with staleCount := (s.face k).queuedCount } } := by
  have empty : (s.openWhere fun t => t.face == k) = [] :=
    s.openWhere_nil _ fun e t track => beq_eq_false_iff_ne.mpr (none_ e t track)
  rw [State.interruptFace_eq, empty]
  rfl

/-- The face with its head and its model DISABLED and its results stale. -/
def State.faceQuiet (s : State) (w : Fin 16) : State :=
  let k := (s.window w).channel
  let x := s.face k
  { s with
    assemblers := vset s.assemblers w .reset
    faces := vset s.faces k
      { x with
        head := { state := .disabled, errors := 0, warning := false, goodRun := 0 }
        staleCount := x.queuedCount
        model := { x.model with state := .disabled, forView := false, forHead := false } } }

/-- With no track of the face OPEN, no live slot of the window and no write held. -/
theorem State.disableWindow_quiet (tracks : ∀ i t, s.track i = some t → t.face ≠ (s.window w).channel)
    (slots : ∀ i, (s.slot i).live = true → (s.slot i).window ≠ w) (held : s.path.held = []) : s.disableWindow w =
      ((s.faceQuiet w).uncoverFace (s.window w).channel).markFace (s.window w).channel := by
  obtain ⟨k, hk⟩ : ∃ k, k = (s.window w).channel := ⟨_, rfl⟩
  rw [← hk] at tracks
  obtain ⟨a, ha⟩ : ∃ a, a = ({ s with assemblers := vset s.assemblers w .reset } : State) := ⟨_, rfl⟩
  have interrupted : a.interruptFace k = { a with faces := vset a.faces k { a.face k with staleCount := (a.face k).queuedCount } } :=
    State.interruptFace_quiet (by rw [ha]; exact tracks)
  have off : s.faceDisabled w = s.faceQuiet w := by
    have set : ({ a with faces := vset a.faces k { a.face k with staleCount := (a.face k).queuedCount } } : State).face k =
      { a.face k with staleCount := (a.face k).queuedCount } := vget_vset_same _ _ _
    unfold State.faceDisabled State.faceQuiet
    dsimp only
    rw [← ha, ← hk, interrupted, set]
    dsimp only
    rw [vset_vset, ha]
    rfl
  have empty : (List.finRange 4).filter ((s.faceDisabled w).feedsCopy w) = [] := by
    refine List.filter_eq_nil_iff.mpr fun i _ feeds => ?_
    rw [off] at feeds
    obtain ⟨live, same⟩ := Bool.and_eq_true_iff.mp feeds
    exact slots i live (beq_iff_eq.mp same)
  have none_ : (s.faceDisabled w).path.held = [] := by
    rw [off]
    exact held
  rw [State.disableWindow_eq, empty, List.foldl_nil, State.releaseStep_none none_, off]

theorem State.windowOn_disabled (off : s.windowEnabled w = false) :
    s.windowOn w = (s.writeShadow (windowAt w) 1).enableWindow w := if_neg (Bool.eq_false_iff.mp off)

theorem State.windowOn_enabled (on : s.windowEnabled w = true) : s.windowOn w = s.writeShadow (windowAt w) 1 := if_pos on

theorem State.windowOff_enabled (on : s.windowEnabled w = true) :
    s.windowOff w = ((s.disableWindow w).writeShadow (windowAt w) 0).takePresented := if_pos on

theorem State.windowOff_disabled (off : s.windowEnabled w = false) : s.windowOff w = s.writeShadow (windowAt w) 0 :=
  if_neg (Bool.eq_false_iff.mp off)

/-- A face told uncovered, its block marked and a byte written, with nothing presented. -/
theorem State.takePresented_uncovered {x : State} (k : Fin 16) (a : Nat) (b : Byte) (reads : x.path.presentedReads = [])
    (writes : x.path.presentedWrites = []) : State.Marked { x.uncoverFace k with shadow := Memory.write x.shadow a b }
      (((x.uncoverFace k).markFace k).writeShadow a b).takePresented := by
  have told : State.Marked (x.setUnit (strandOf k) ((x.unit (strandOf k)).uncover (faceIn k))) (x.uncoverFace k) :=
    .changeUnit _ _ _
  have path : (x.uncoverFace k).path = x.path := by
    obtain ⟨m, same⟩ := told
    exact (congrArg State.path same :)
  have shadow : (x.uncoverFace k).shadow = x.shadow := by
    obtain ⟨m, same⟩ := told
    exact (congrArg State.shadow same :)
  have none_ : (((x.uncoverFace k).markFace k).writeShadow a b).takePresented =
      ((x.uncoverFace k).markFace k).writeShadow a b :=
    State.takePresented_none _ ((congrArg Path.presentedReads path).trans reads) ((congrArg Path.presentedWrites path).trans writes)
  rw [none_, ← shadow]
  exact ⟨_, rfl⟩

/-- An entry that is enabled lets its Enable byte be written. -/
theorem State.checkWindow_enabled (on : s.windowEnabled w = true) (b : Byte) (low : b.toNat ≤ 1) :
    s.checkWindow [(windowAt w, b)] w = none :=
  (State.checkWindow_byte w b low).trans (if_neg fun h => Bool.false_ne_true (h.1.symm.trans on))

end

end Sys2Proof.Machine

open Sys2Proof Sys2Proof.Machine

/-! ### The statements -/

/-- Settles O52: Global Enable by the part's state and the byte written. -/
theorem globalEnableMovesThePart : Obligations.GlobalEnableMovesThePart := by
  refine ⟨⟨fun s low flight pass ok => ?enters, fun s low flight on => ?stays⟩, fun s low flight run quiet => ?leaves,
    fun s low flight pass cross wf => ?passes⟩
  case enters =>
    have passes : s.opened.checkGlobal [(globalAt, 1)] = none := State.checkGlobal_on (s := s.opened) pass ok
    obtain ⟨settles, notes⟩ := State.control_event (off := globalAt) (e := fun t => t.checkGlobal [(globalAt, 1)])
      (f := State.globalOn) low flight passes
    have first := State.control_firstWrite (off := globalAt) (e := fun t => t.checkGlobal [(globalAt, 1)])
      (f := State.globalOn) low flight passes
    obtain ⟨t, ht⟩ : ∃ t, t = s.event fun t => t.control globalAt (t.checkGlobal [(globalAt, 1)]) State.globalOn := ⟨_, rfl⟩
    have on : s.opened.globalOn = (s.opened.writeShadow 0 1).enterStarting := State.globalOn_pass (s := s.opened) pass
    have marks (b : Fin 22) : s.opened.globalOn.mark b = (s.mark b).atStarting :=
      (congrArg (State.mark · b) on).trans (State.enterStarting_mark _ b)
    obtain ⟨o, z, entered⟩ := (s.opened.writeShadow 0 1).enterStarting_eq
    rw [← ht, on, entered] at settles
    have same := settles.same
    have strand (k : Fin 4) : t.strand k = (s.strand k).atStarting :=
      (congrArg (State.strand · k) same).trans (vget_vtab _ _)
    have timer : t.statusTimer = some (s.timeBase + 1000 * (Machine.globals (Memory.write s.shadow 0 1)).statusPeriod) :=
      congrArg State.statusTimer same
    refine ⟨t, ht ▸ rfl, congrArg State.part same, congrArg State.shadow same, ?_, fun b => ⟨?_, ?_⟩, congrArg State.ring same,
      fun i => ?_, congrArg State.zeroUnanswered same, fun k => ⟨(congrArg Strand.unit (strand k) :),
        (congrArg Strand.predictor (strand k) :), (congrArg Strand.billet (strand k) :)⟩, (congrArg State.faces same :),
      (congrArg State.tracks same :), (congrArg State.lineQueue same :), (congrArg State.assemblers same :),
      (congrArg (fun x => x.causes.pending) same :), (congrArg (fun x => x.causes.posted) same :),
      (congrArg State.path same :)⟩
    · rw [timer, statusPeriod_write]
      rfl
    · refine ht ▸ notes b ?_ (.inl ?_)
      · rw [marks]
        rfl
      · rw [marks]
        rfl
    · rw [ht, first, marks]
      rfl
    · exact (congrArg (State.tile · i) same).trans (Vector.getElem_replicate _)
  case stays =>
    refine .of_taken rfl low flight ?_ (State.globalOn_other (s := s.opened) on)
    cases part : s.part with
    | pass => exact absurd part on
    | starting => exact (State.checkGlobal_starting (s := s.opened) part 1 (by decide)).trans (if_neg (by decide))
    | run => exact (State.checkGlobal_run (s := s.opened) part 1 (by decide)).trans (if_neg fun h => absurd h.1 (by decide))
  case leaves =>
    refine .of_control_taken s rfl low flight
      ((State.checkGlobal_run (s := s.opened) run 0 (by decide)).trans (if_neg fun h => ?_)) ?_
    · exact Bool.false_ne_true (h.2.symm.trans quiet)
    · rw [State.globalOff_run (s := s.opened) run]
      exact .markDirty _ _
  case passes =>
    refine .of_taken rfl low flight ((State.checkGlobal_pass (s := s.opened) pass 0 (by decide)).trans (if_pos ⟨cross, fun on => ?_⟩))
      (State.globalOff_other (s := s.opened) fun run => (nomatch pass.symm.trans run))
    have zero : Memory.read (Memory.write s.shadow 0 0) 0 = 0 := by
      rw [Memory.read_write _ _ _ _ wf, if_pos rfl]
    exact absurd (zero.symm.trans on) (by decide)

/-- Settles O55: the enable and the disable by the entry's state. -/
theorem windowEnableAndDisableSetTheFace : Obligations.WindowEnableAndDisableSetTheFace := by
  refine ⟨fun s w => ⟨s.enableWindow_eq w, ?disable⟩, fun s w low flight on => ?disabled, fun s w low flight => ⟨?on, ?again⟩,
    fun s w low flight quiet => ⟨?off, ?still⟩⟩
  case disable =>
    intro i y off sourced ended
    have named : off.feedsCopy w = sourced := by
      funext j
      unfold State.feedsCopy Slot.live
      have isNone (o : Option Machine.Outcome) : o.isNone = (o == none) := by
        cases o <;> rfl
      rw [isNone]
    have disabled := s.disableWindow_eq w
    rw [show s.faceDisabled w = off from rfl, named] at disabled
    exact disabled
  case disabled =>
    exact .of_taken rfl low flight (State.checkWindow_enabled (s := s.opened) on 0 (by decide))
      (State.windowOff_enabled (s := s.opened) on)
  case on =>
    intro off ok wf k x
    refine .of_control_taken s rfl low flight
      ((State.checkWindow_byte (s := s.opened) w 1 (by decide)).trans (if_neg fun h => ?_)) ?_
    · exact Bool.false_ne_true (h.2.2.symm.trans ok)
    · rw [State.windowOn_disabled (s := s.opened) off, State.enableWindow_eq]
      exact .markDirty _ _
  case again =>
    intro on
    exact .of_taken rfl low flight (State.checkWindow_enabled (s := s.opened) on 1 (by decide))
      (State.windowOn_enabled (s := s.opened) on)
  case off =>
    intro on k x tracks slots held
    obtain ⟨reads, writes⟩ := quiet
    refine .of_control_taken s rfl low flight (State.checkWindow_enabled (s := s.opened) on 0 (by decide)) ?_
    rw [State.windowOff_enabled (s := s.opened) on, State.disableWindow_quiet (s := s.opened) tracks slots held]
    exact (State.takePresented_uncovered (x := s.opened.faceQuiet w) k (windowAt w) 0 reads writes).settles
  case still =>
    intro off wf
    refine .of_taken rfl low flight ((State.checkWindow_byte (s := s.opened) w 0 (by decide)).trans (if_neg fun h => ?_))
      (State.windowOff_disabled (s := s.opened) off)
    have zero : Memory.read (Memory.write s.shadow (windowAt w) 0) (windowAt w) = 0 := by
      rw [Memory.read_write _ _ _ _ wf, if_pos rfl]
    exact absurd (zero.symm.trans ((windowEnabled_iff _ w).mp h.2.1)) (by decide)

end

-- ==== What the checks of the action words read (R47, R177) ====
section
/-!
PROOFS. An action word is decided by the part's state, the settings, the states of the strands and those of the heads, in the state
that the write leaves before it. Two states that agree in these agree in them after each effect of a write too: so the checks do not
see the number of the event, nor what the event before it put out.
-/
namespace Sys2Proof.Machine

/-! ### States that agree in what the action words read -/

/-- The second state agrees with the first in what decides an action word. -/
structure State.Alike (s t : State) : Prop where
  part : t.part = s.part
  shadow : t.shadow = s.shadow
  units : ∀ k, (t.unit k).state = (s.unit k).state
  heads : ∀ k, (t.face k).head.state = (s.face k).head.state

namespace State.Alike

variable {a b c s t : State}

theorem refl (s : State) : s.Alike s := ⟨rfl, rfl, fun _ => rfl, fun _ => rfl⟩

theorem symm (h : a.Alike b) : b.Alike a := ⟨h.part.symm, h.shadow.symm, fun k => (h.units k).symm, fun k => (h.heads k).symm⟩

theorem trans (h : a.Alike b) (g : b.Alike c) : a.Alike c :=
  ⟨g.part.trans h.part, g.shadow.trans h.shadow, fun k => (g.units k).trans (h.units k), fun k => (g.heads k).trans (h.heads k)⟩

/-- Two changes, the last one first, so that it is read off the goal. -/
theorem after (g : b.Alike c) (h : a.Alike b) : a.Alike c := h.trans g

/-- The same strands and faces, with the part's state and the shadow. -/
theorem ofSame (part : t.part = s.part) (shadow : t.shadow = s.shadow) (strands : t.strands = s.strands)
    (faces : t.faces = s.faces) : s.Alike t :=
  ⟨part, shadow, fun k => congrArg (fun v => (vget v k).unit.state) strands, fun k =>
    congrArg (fun v => (vget v k).head.state) faces⟩

theorem ofMarked (h : s.Marked t) : s.Alike t := by
  obtain ⟨m, rfl⟩ := h
  exact ofSame rfl rfl rfl rfl

theorem markDirty (s : State) (b : Fin 22) : s.Alike (s.markDirty b) := ofSame rfl rfl rfl rfl

theorem raise (s : State) (c : Cause) : s.Alike (s.raise c) := after (ofMarked (.raise s c)) (ofSame rfl rfl rfl rfl)

/-! ### A strand's record, a face's record -/

theorem setStrand (k : Fin 4) {x : Strand} (same : x.unit.state = (s.unit k).state) : s.Alike (s.setStrand k x) := by
  refine ⟨rfl, rfl, fun j => ?_, fun _ => rfl⟩
  rw [State.unit_setStrand]
  split
  · next own => exact own ▸ same
  · rfl

theorem setBillet (s : State) (k : Fin 4) (x : Billet) : s.Alike (s.setBillet k x) := setStrand k rfl

theorem setPredictor (s : State) (k : Fin 4) (x : Predictor) : s.Alike (s.setPredictor k x) := setStrand k rfl

theorem setFace (k : Fin 16) {x : Face} (same : x.head.state = (s.face k).head.state) : s.Alike (s.setFace k x) := by
  refine ⟨rfl, rfl, fun _ => rfl, fun j => ?_⟩
  rw [State.face_setFace]
  split
  · next own => exact own ▸ same
  · rfl

theorem changePredictor (s : State) (k : Fin 4) (p : Predictor) : s.Alike (s.changePredictor k p) := by
  unfold State.changePredictor
  split
  · exact setPredictor _ _ _
  · exact after (markDirty _ _) (setPredictor _ _ _)

theorem changeUnit (k : Fin 4) {u : StrandUnit} (same : u.state = (s.unit k).state) : s.Alike (s.changeUnit k u) :=
  after (ofMarked (.changeUnit s k u)) (setStrand k same)

theorem uncoverFace (s : State) (k : Fin 16) : s.Alike (s.uncoverFace k) := by
  refine changeUnit _ ?_
  unfold StrandUnit.uncover
  dsimp only
  split
  · rfl
  · split <;> rfl

end State.Alike

/-! ### What the Evidence Engine leaves (R150 to R168) -/

/-- The second state is the first but for the own traffic and the Evidence Engine. -/
def State.EngineOnly (s t : State) : Prop := ∃ o e, t = { s with own := o, evidence := e }

namespace State.EngineOnly

variable {a b c s t : State}

theorem trans (h : a.EngineOnly b) (g : b.EngineOnly c) : a.EngineOnly c := by
  obtain ⟨o, e, rfl⟩ := h
  obtain ⟨p, f, rfl⟩ := g
  exact ⟨p, f, rfl⟩

theorem alike (h : s.EngineOnly t) : s.Alike t := by
  obtain ⟨o, e, rfl⟩ := h
  exact .ofSame rfl rfl rfl rfl

theorem setSlot (s : State) (i : Fin 4) (x : Slot) : s.EngineOnly (s.setSlot i x) := ⟨s.own, _, rfl⟩

theorem withEvidence (s : State) (e : Evidence) : s.EngineOnly { s with evidence := e } := ⟨s.own, e, rfl⟩

theorem engineMake (s : State) (x : OwnTxn) : s.EngineOnly (s.engineMake x) := by
  by_cases direct : s.joinsAtOnce
  · rw [State.engineMake_direct direct]
    have issued : s.EngineOnly (s.readIssued x.tag) := by
      cases x.tag with
      | ringRead i n => exact setSlot _ _ _
      | _ => exact ⟨s.own, s.evidence, rfl⟩
    exact issued.trans ⟨_, (s.readIssued x.tag).evidence, rfl⟩
  · rw [State.engineMake_behind direct]
    exact ⟨_, s.evidence, rfl⟩

theorem makeRead (s : State) (i : Fin 4) : s.EngineOnly (s.makeRead i) := engineMake _ _

theorem makeHeader (s : State) (i : Fin 4) (o : Outcome) : s.EngineOnly (s.makeHeader i o) :=
  (setSlot s i { s.slot i with outcome := some o }).trans (engineMake _ _)

theorem chooseCopy (s : State) : s.EngineOnly s.chooseCopy := by
  by_cases copying : ∃ i, (s.slot i).state = .copying
  · rw [State.chooseCopy_copying copying]
    exact ⟨s.own, s.evidence, rfl⟩
  · rw [State.chooseCopy_eq (not_exists.mp copying)]
    cases (List.finRange 4).foldl s.preferred none with
    | none => exact ⟨s.own, s.evidence, rfl⟩
    | some i =>
      dsimp only
      split
      · exact (setSlot s i { s.slot i with state := .copying }).trans (makeHeader _ _ _)
      · exact (setSlot s i { s.slot i with state := .copying }).trans (makeRead _ _)

theorem assignSlot (s : State) (i : Fin 4) (t : Fin 64) (q : CopyRequest) : s.EngineOnly (s.assignSlot i t q) := by
  rw [State.assignSlot_eq]
  exact (withEvidence s _).trans (chooseCopy _)

end State.EngineOnly

/-! ### What a close of a track leaves (R98, R104, R126) -/

namespace State.Alike

variable {s t : State}

theorem releaseStep (s : State) : s.Alike s.releaseStep := by
  obtain ⟨p, c, same⟩ := s.releaseStep_same
  rw [same]
  exact ofSame rfl rfl rfl rfl

theorem withEvidence (s : State) (e : Evidence) : s.Alike { s with evidence := e } := ofSame rfl rfl rfl rfl

theorem markPreEmpted (s : State) (n : Option Nat) : s.Alike (s.markPreEmpted n) := by
  cases n with
  | none => exact refl s
  | some n =>
    have strand (k : Fin 4) : (s.markPreEmpted (some n)).strand k = (s.strand k).preEmpt n := vget_vtab _ _
    exact ⟨rfl, rfl, fun k => (congrArg (fun y : Strand => y.unit.state) (strand k) :), fun _ => rfl⟩

theorem preEmptSlot (s : State) (i : Fin 4) (q : CopyRequest) : s.Alike (s.preEmptSlot i q) := by
  unfold State.preEmptSlot
  refine after (State.EngineOnly.assignSlot _ _ _ _).alike (after (withEvidence _ _) (after (releaseStep _) ?_))
  exact after (State.EngineOnly.setSlot _ _ _).alike (markPreEmpted _ _)

theorem requestCopy (s : State) (q : CopyRequest) : s.Alike (s.requestCopy q).2 := by
  by_cases on : s.globals.evidenceEnable = 1
  · rw [State.requestCopy_on on]
    have asked : s.Alike s.asked := withEvidence _ _
    cases s.asked.idleSlot with
    | some i =>
      cases s.asked.freeTile with
      | some t => exact after (State.EngineOnly.assignSlot _ _ _ _).alike (after (markDirty _ _) (after (withEvidence _ _) asked))
      | none => exact after (raise _ _) (withEvidence _ _)
    | none =>
      cases s.asked.victim q.severity with
      | some i => exact after (preEmptSlot _ _ _) asked
      | none => exact withEvidence _ _
  · rw [State.requestCopy_off on]
    exact withEvidence _ _

theorem filterFinding (s : State) (f : Finding) : s.Alike (s.filterFinding f).2 := by
  unfold State.filterFinding
  split <;> exact ofSame rfl rfl rfl rfl

theorem alertFinding (s : State) (f : Finding) : s.Alike (s.alertFinding f) := by
  unfold State.alertFinding
  dsimp only
  split
  · exact after (markDirty _ _) (after (raise _ _) (setBillet _ _ _))
  · exact refl s

theorem evidenceFinding (s : State) (f : Finding) (x : Source) : s.Alike (s.evidenceFinding f x).2 := by
  unfold State.evidenceFinding
  split
  · exact requestCopy _ _
  · exact refl s

theorem holdFinding (s : State) (f : Finding) : s.Alike (s.holdFinding f) := by
  unfold State.holdFinding
  dsimp only
  split
  · exact after (markDirty _ _) (after (markDirty _ _) (setBillet _ _ _))
  · exact after (markDirty _ _) (after (raise _ _) (setBillet _ _ _))

theorem handleFinding (s : State) (f : Finding) (x : Source) : s.Alike (s.handleFinding f x) :=
  after (holdFinding _ _) (after (evidenceFinding _ _ _) (after (alertFinding _ _) (after (filterFinding _ _) (setBillet _ _ _))))

theorem handOn (s : State) (t : Track) (evicted interrupted : Bool) : s.Alike (s.handOn t evicted interrupted) := by
  unfold State.handOn
  dsimp only
  split
  · exact setFace _ rfl
  · split
    · exact after (changePredictor _ _ _) (setFace _ rfl)
    · exact setFace _ rfl
  · exact after (handleFinding _ _ _) (after (markDirty _ _) (setFace _ rfl))

theorem closeEntry (s : State) (e : Fin 64) (evicted interrupted : Bool) : s.Alike (s.closeEntry e evicted interrupted) := by
  unfold State.closeEntry
  split
  · exact refl s
  · next t _ =>
    have freed : (s.handOn t evicted interrupted).Alike ((s.handOn t evicted interrupted).setTrack e none) :=
      ofSame rfl rfl rfl rfl
    have closed : s.Alike ((s.handOn t evicted interrupted).setTrack e none) := (handOn s t evicted interrupted).trans freed
    exact after (markDirty _ _) (after (setFace _ rfl) closed)

theorem interruptFace (s : State) (k : Fin 16) : s.Alike (s.interruptFace k) := by
  have closed (l : List (Fin 64 × Track)) (s : State) : s.Alike (State.closeEntries true l s) := by
    induction l generalizing s with
    | nil => exact refl s
    | cons x rest ih => exact after (ih _) (closeEntry _ _ _ _)
  exact after (setFace _ rfl) (closed _ s)

theorem abortWindow (s : State) (w : Fin 16) : s.Alike (s.abortWindow w) := by
  rw [State.abortWindow_eq]
  refine after (releaseStep _) ?_
  have same := (State.AbortsTo.foldl .aborted ((List.finRange 4).filter (s.feedsCopy w)) s).same
  rw [same]
  exact ofSame rfl rfl rfl rfl

/-! ### The effects of a write (R174, R177) -/

/-- Two states that agree still do with the same head state in a face. -/
theorem setHead (h : s.Alike t) (k : Fin 16) {x y : Face} (same : y.head.state = x.head.state) :
    (s.setFace k x).Alike (t.setFace k y) := by
  refine ⟨h.part, h.shadow, h.units, fun j => ?_⟩
  rw [State.face_setFace, State.face_setFace]
  split
  · exact same
  · exact h.heads j

/-- Two states that agree still do with the same strand state in a strand. -/
theorem setState (h : s.Alike t) (k : Fin 4) {x y : Strand} (same : y.unit.state = x.unit.state) :
    (s.setStrand k x).Alike (t.setStrand k y) := by
  refine ⟨h.part, h.shadow, fun j => ?_, h.heads⟩
  rw [State.unit_setStrand, State.unit_setStrand]
  split
  · exact same
  · exact h.units j

theorem withPart (h : s.Alike t) (p : PartState) : ({ s with part := p } : State).Alike { t with part := p } :=
  ⟨rfl, h.shadow, h.units, h.heads⟩

theorem withShadow (h : s.Alike t) (m : List Host.Cell) : ({ s with shadow := m } : State).Alike { t with shadow := m } :=
  ⟨h.part, rfl, h.units, h.heads⟩

theorem window (h : s.Alike t) (w : Fin 16) : t.window w = s.window w := congrArg (Machine.window · w) h.shadow

theorem disableWindow (h : s.Alike t) (w : Fin 16) : (s.disableWindow w).Alike (t.disableWindow w) := by
  have closed (u : State) : (u.setFace (u.window w).channel { u.face (u.window w).channel with head := .reset }).Alike
      (u.disableWindow w) := by
    have interrupted : u.Alike ((u.setAssembler w .reset).interruptFace (u.window w).channel) :=
      after (interruptFace _ _) (ofSame rfl rfl rfl rfl)
    refine after (markDirty _ _) (after (uncoverFace _ _) (after (abortWindow _ _) ?_))
    exact setHead interrupted _ rfl
  have set := setHead h (s.window w).channel (x := { s.face (s.window w).channel with head := .reset })
    (y := { t.face (s.window w).channel with head := .reset }) rfl
  have other := closed t
  rw [h.window w] at other
  exact (closed s).symm.trans (set.trans other)

theorem enableWindow (h : s.Alike t) (w : Fin 16) : (s.enableWindow w).Alike (t.enableWindow w) := by
  have taken (u : State) : ((u.setAssembler w .reset).setFace (u.window w).channel
      { u.face (u.window w).channel with head := { state := .active, errors := 0, warning := false, goodRun := 0 } }).Alike
      (u.enableWindow w) :=
    after (markDirty _ _) (after (uncoverFace _ _) (setHead (refl _) _ rfl))
  have assembled : (s.setAssembler w .reset).Alike (t.setAssembler w .reset) := ⟨h.part, h.shadow, h.units, h.heads⟩
  have set := setHead assembled (s.window w).channel
    (x := { s.face (s.window w).channel with head := { state := .active, errors := 0, warning := false, goodRun := 0 } })
    (y := { t.face (s.window w).channel with head := { state := .active, errors := 0, warning := false, goodRun := 0 } }) rfl
  have other := taken t
  rw [h.window w] at other
  exact (taken s).symm.trans (set.trans other)

theorem takeShadow (h : s.Alike t) (m : List Host.Cell) : (s.takeShadow m).Alike (t.takeShadow m) := by
  have taken (u : State) : ({ u with shadow := m } : State).Alike (u.takeShadow m) := ofMarked (u.takeShadow_marked m).1
  exact (taken s).symm.trans ((withShadow h m).trans (taken t))

theorem enterStarting (h : s.Alike t) : s.enterStarting.Alike t.enterStarting := by
  have entered (u : State) : ({ u with part := .starting } : State).Alike u.enterStarting := by
    obtain ⟨o, z, same⟩ := u.enterStarting_eq
    have strand (k : Fin 4) : u.started.strand k = (u.strand k).atStarting := vget_vtab _ _
    rw [same]
    exact ⟨rfl, rfl, fun k => (congrArg (fun y : Strand => y.unit.state) (strand k) :), fun _ => rfl⟩
  exact (entered s).symm.trans ((withPart h _).trans (entered t))

theorem enterPass (h : s.Alike t) : s.enterPass.Alike t.enterPass := by
  have left (u : State) : ({ u with part := .pass } : State).Alike u.enterPass := after (markDirty _ _) (ofSame rfl rfl rfl rfl)
  exact (left s).symm.trans ((withPart h _).trans (left t))

theorem globalEffect (h : s.Alike t) (m : List Host.Cell) : (s.globalEffect m).Alike (t.globalEffect m) := by
  rw [State.globalEffect_eq, State.globalEffect_eq, h.part, h.shadow]
  split
  · exact enterStarting h
  · split
    · exact enterPass h
    · exact h

theorem forEach {α : Type} (test : α → Bool) {f : State → α → State} (step : ∀ (u v : State) (a : α), u.Alike v → (f u a).Alike (f v a))
    (l : List α) (h : s.Alike t) : (State.forEach test f l s).Alike (State.forEach test f l t) := by
  induction l generalizing s t with
  | nil => exact h
  | cons a rest ih =>
    unfold State.forEach
    split
    · exact ih (step _ _ a h)
    · exact ih h

theorem mergeControl (h : s.Alike t) (cells : List Host.Cell) : (s.mergeControl cells).Alike (t.mergeControl cells) := by
  unfold State.mergeControl
  dsimp only
  rw [h.shadow]
  have filters (u v : State) (i : Fin 8) (g : u.Alike v) : (u.enableFilter i).Alike (v.enableFilter i) :=
    ⟨g.part, g.shadow, g.units, g.heads⟩
  refine forEach _ filters _ ?_
  refine forEach _ (fun u v w g => enableWindow g w) _ (globalEffect (takeShadow ?_ _) _)
  exact forEach _ (fun u v w g => disableWindow g w) _ h

theorem startStrand (h : s.Alike t) (k : Fin 4) : (s.startStrand k).Alike (t.startStrand k) := by
  have models (u : State) : u.Alike (u.onFaces k State.startModel) :=
    after (setFace _ rfl) (after (setFace _ rfl) (after (setFace _ rfl) (setFace _ rfl)))
  have started (u : State) : (u.setStrand k { u.strand k with unit := { u.unit k with state := .casting } }).Alike
      (u.startStrand k) := after (models _) (after (markDirty _ _) (setState (refl u) k rfl))
  have both : (s.setStrand k { s.strand k with unit := { s.unit k with state := .casting } }).Alike
      (t.setStrand k { t.strand k with unit := { t.unit k with state := .casting } }) := setState h k rfl
  exact (started s).symm.trans (both.trans (started t))

theorem stopStrand (h : s.Alike t) (k : Fin 4) : (s.stopStrand k).Alike (t.stopStrand k) := by
  have stopped (u : State) : (u.setStrand k { u.strand k with unit := { u.unit k with state := .stopping } }).Alike (u.stopStrand k) := by
    unfold State.stopStrand
    dsimp only
    split
    · exact after (markDirty _ _) (setState (refl u) k rfl)
    · have queued : u.Alike { u with lineQueue := u.lineQueue ++ [QueueEntry.stop k (u.unit k).travel] } := ofSame rfl rfl rfl rfl
      exact after (markDirty _ _) (setState queued k rfl)
  have both : (s.setStrand k { s.strand k with unit := { s.unit k with state := .stopping } }).Alike
      (t.setStrand k { t.strand k with unit := { t.unit k with state := .stopping } }) := setState h k rfl
  exact (stopped s).symm.trans (both.trans (stopped t))

theorem cutEvent (s : State) (k : Fin 4) : s.Alike (s.cutEvent k) := by
  unfold State.cutEvent
  dsimp only
  split
  · exact after (markDirty _ _) (after (raise _ _) (setStrand k rfl))
  · have queued (b : Nat) : s.Alike { s with lineQueue := s.lineQueue ++ [QueueEntry.boundary k b] } := ofSame rfl rfl rfl rfl
    exact after (markDirty _ _) (after (setStrand k rfl) (queued _))

theorem ackView (s : State) (mask : Byte) : s.Alike (s.ackView mask) := by
  rw [State.ackView_eq]
  refine ⟨rfl, rfl, fun k => ?_, fun _ => rfl⟩
  refine (congrArg (fun y : Strand => y.unit.state) (vget_vtab _ _)).trans ?_
  split <;> rfl

theorem onStrandArg (h : s.Alike t) (b : Byte) {f : State → Fin 4 → State}
    (step : ∀ (u v : State) (k : Fin 4), u.Alike v → (f u k).Alike (f v k)) : (s.onStrandArg b f).Alike (t.onStrandArg b f) := by
  unfold State.onStrandArg
  split
  · exact h
  · exact step _ _ _ h

/-- The action of a word performed in two states that agree. -/
theorem performAction (h : s.Alike t) (a : ControlAction) : (s.performAction a).Alike (t.performAction a) := by
  cases a with
  | strandStart arg => exact onStrandArg h arg fun u v k g => startStrand g k
  | strandStop arg => exact onStrandArg h arg fun u v k g => stopStrand g k
  | cutNow arg => exact onStrandArg h arg fun u v k g => (cutEvent u k).symm.trans (g.trans (cutEvent v k))
  | headRestart arg =>
    unfold State.performAction State.onChannelArg
    dsimp only
    split
    · exact h
    · exact setHead h _ rfl
  | releaseTiles mask => exact (withEvidence s _).symm.trans (h.trans (withEvidence t _))
  | ackCauses mask =>
    have taken (u : State) : u.Alike (u.acknowledge mask) :=
      after (ofMarked (u.acknowledge_marked mask).1) (ofSame rfl rfl rfl rfl)
    exact (taken s).symm.trans (h.trans (taken t))
  | ackView mask => exact (ackView s mask).symm.trans (h.trans (ackView t mask))

/-! ### The checks (R47, R177) -/

theorem checkAction (h : s.Alike t) (a : ControlAction) : t.checkAction a = s.checkAction a := by
  have settings (k : Fin 4) : t.settings k = s.settings k := congrArg (strandSettings · k) h.shadow
  have moving (k : Fin 4) : (t.unit k).moving = (s.unit k).moving := by
    unfold StrandUnit.moving
    rw [h.units]
  cases a with
  | strandStart arg =>
    show t.checkStart arg = s.checkStart arg
    unfold State.checkStart
    simp only [h.part, h.units, settings]
  | strandStop arg =>
    show t.checkMoving arg = s.checkMoving arg
    unfold State.checkMoving
    simp only [moving]
  | cutNow arg =>
    show t.checkMoving arg = s.checkMoving arg
    unfold State.checkMoving
    simp only [moving]
  | headRestart arg =>
    show t.checkRestart arg = s.checkRestart arg
    unfold State.checkRestart
    simp only [h.heads]
  | releaseTiles mask => rfl
  | ackCauses mask => rfl
  | ackView mask => rfl

theorem checkActions (h : s.Alike t) (cells : List Host.Cell) (l : List (Fin 7)) :
    State.checkActions cells l t = State.checkActions cells l s := by
  induction l generalizing s t with
  | nil => rfl
  | cons n rest ih =>
    rw [checkActions_cons, checkActions_cons, checkAction h, ih h, ih (performAction h _)]

end State.Alike

/-- The event's number, and what the event before put out, decide no Control Page write. -/
theorem State.checkControl_opened (s : State) (cells : List Host.Cell) : s.opened.checkControl cells = s.checkControl cells := by
  have alike : s.Alike s.opened := .ofSame rfl rfl rfl rfl
  rw [State.checkControl_eq, State.checkControl_eq, (alike.mergeControl cells).checkActions]
  rfl

end Sys2Proof.Machine

end

-- ==== Writes of settings (R26, R46, R68, R128, R170, R174, R175) ====
section
/-!
PROOFS. A Control Page write of any bytes is decided by its checks. One within a single area is decided by that area's check alone;
one within the Face or the Strand Settings that passes it changes the bytes that it covers and nothing else.
-/
namespace Sys2Proof.Machine

/-! ### The covered bytes (R174) -/

theorem coveredCells_eq (off : Nat) (data : List Byte) (strobes : List Bool) : coveredCells off data strobes =
    ((data.zip strobes).zipIdx off).filterMap fun x => if x.1.2 then some (x.2, x.1.1) else none := by
  induction data generalizing off strobes with
  | nil => rfl
  | cons b data ih =>
    cases strobes with
    | nil => rfl
    | cons t strobes =>
      unfold coveredCells
      rw [List.zip_cons_cons, List.zipIdx_cons, List.filterMap_cons, ih]
      cases t <;> rfl

/-- A covered byte lies among the bytes of the write. -/
theorem coveredCells_within {off : Nat} {data : List Byte} {strobes : List Bool} {c : Host.Cell}
    (mem : c ∈ coveredCells off data strobes) : off ≤ c.1 ∧ c.1 < off + data.length := by
  rw [coveredCells_eq] at mem
  obtain ⟨⟨⟨b, t⟩, i⟩, at_, some_⟩ := List.mem_filterMap.mp mem
  dsimp only at some_
  split at some_
  · obtain rfl := Option.some.inj some_
    have low := List.le_snd_of_mem_zipIdx at_
    have high := List.snd_lt_add_of_mem_zipIdx at_
    rw [List.length_zip] at high
    exact ⟨low, by omega⟩
  · exact (nomatch some_)

/-- A byte whose strobe is set is covered. -/
theorem mem_coveredCells {off i : Nat} {data : List Byte} {strobes : List Bool} (lengths : strobes.length = data.length)
    (strobe : strobes[i]? = some true) : ∃ b, (off + i, b) ∈ coveredCells off data strobes := by
  obtain ⟨inside, set⟩ := List.getElem?_eq_some_iff.mp strobe
  have inData : i < data.length := lengths ▸ inside
  refine ⟨data[i], ?_⟩
  rw [coveredCells_eq]
  refine List.mem_filterMap.mpr ⟨((data[i], strobes[i]), off + i), ?_, ?_⟩
  · refine List.mem_zipIdx_iff_le_and_getElem?_sub.mpr ⟨Nat.le_add_right _ _, ?_⟩
    rw [Nat.add_sub_cancel_left, List.getElem?_zip_eq_some]
    exact ⟨List.getElem?_eq_getElem inData, List.getElem?_eq_getElem inside⟩
  · simp [set]

/-- The bytes of a write as they are read after it. -/
theorem read_coveredCells {m : List Host.Cell} (wf : Memory.wf m = true) (off i : Nat) (data : List Byte) (strobes : List Bool)
    (lengths : strobes.length = data.length) : Memory.read (Memory.writeAll m (coveredCells off data strobes)) i =
      if off ≤ i ∧ strobes[i - off]? = some true then data.getD (i - off) 0 else Memory.read m i := by
  induction data generalizing m off strobes with
  | nil =>
    obtain rfl := List.length_eq_zero_iff.mp lengths
    exact (if_neg fun h => (nomatch h.2)).symm
  | cons b data ih =>
    cases strobes with
    | nil => exact absurd lengths (Nat.succ_ne_zero _).symm
    | cons t strobes =>
      have rest : strobes.length = data.length := Nat.succ.inj lengths
      have tail (above : off + 1 ≤ i) : i - off = (i - (off + 1)) + 1 := by omega
      unfold coveredCells
      cases t with
      | false =>
        refine (ih wf (off + 1) strobes rest).trans ?_
        by_cases above : off + 1 ≤ i
        · rw [tail above, List.getElem?_cons_succ, List.getD_cons_succ]
          exact if_congr (and_congr_left fun _ => ⟨fun _ => by omega, fun _ => above⟩) rfl rfl
        · rw [if_neg fun h => above h.1, if_neg]
          rintro ⟨low, strobe⟩
          rw [show i - off = 0 by omega] at strobe
          exact (nomatch strobe)
      | true =>
        refine (ih (Memory.wf_write _ _ _ wf) (off + 1) strobes rest).trans ?_
        rw [Memory.read_write _ _ _ _ wf]
        by_cases above : off + 1 ≤ i
        · rw [tail above, List.getElem?_cons_succ, List.getD_cons_succ, if_neg (show ¬i = off by omega)]
          exact if_congr (and_congr_left fun _ => ⟨fun _ => by omega, fun _ => above⟩) rfl rfl
        · rw [if_neg fun h => above h.1]
          by_cases here : i = off
          · subst here
            rw [if_pos rfl, Nat.sub_self, if_pos ⟨le_refl _, rfl⟩]
            rfl
          · rw [if_neg here, if_neg fun h => here (by omega)]

/-! ### The areas that a write does not touch (R175) -/

/-- Every byte that a write covers lies in a range. -/
def CellsIn (cells : List Host.Cell) (lo hi : Nat) : Prop := ∀ c ∈ cells, lo ≤ c.1 ∧ c.1 < hi

section
variable {s : State} {cells : List Host.Cell} {lo hi : Nat}

theorem CellsIn.apart (h : CellsIn cells lo hi) {a n : Nat} (apart : hi ≤ a ∨ a + n ≤ lo) :
    ¬∃ c ∈ cells, a ≤ c.1 ∧ c.1 < a + n := by
  rintro ⟨c, mem, low, high⟩
  have := h c mem
  omega

theorem CellsIn.noAction (h : CellsIn cells lo hi) (apart : hi ≤ 0x200 ∨ 0x238 ≤ lo) : coversActions cells = false :=
  Bool.eq_false_iff.mpr fun covered => h.apart apart ((covers_iff _ _ _).mp covered)

/-- The list's only reason is the first. -/
theorem findSome?_only {l : List (Option Reason)} {o : Option Reason} (only : ∀ x ∈ l, x = none ∨ x = o)
    (reached : o = none ∨ o ∈ l) : l.findSome? id = o := by
  induction l with
  | nil => exact (reached.resolve_right (List.not_mem_nil)).symm
  | cons x rest ih =>
    obtain ⟨first, others⟩ := List.forall_mem_cons.mp only
    rw [findSome?_cons_id]
    obtain rfl | rfl := first
    · exact ih others (reached.elim .inl fun mem => List.mem_cons.mp mem)
    · cases x with
      | some r => rfl
      | none => exact ih others (.inl rfl)

/-- A write that touches no action word, whose areas' checks give one reason or none, is decided by that. -/
theorem State.checkControl_only {o : Option Reason} (global : s.checkGlobal cells = none ∨ s.checkGlobal cells = o)
    (unlocked : s.checkUnlocked cells = none) (actions : coversActions cells = false)
    (windows : ∀ w, s.checkWindow cells w = none ∨ s.checkWindow cells w = o)
    (faces : ∀ k, s.checkFace cells k = none ∨ s.checkFace cells k = o)
    (strands : ∀ k, s.checkStrand cells k = none ∨ s.checkStrand cells k = o)
    (filters : ∀ i, s.checkFilter cells i = none ∨ s.checkFilter cells i = o)
    (reached : o = none ∨ s.checkGlobal cells = o ∨ (∃ w, s.checkWindow cells w = o) ∨ (∃ k, s.checkFace cells k = o) ∨
      (∃ k, s.checkStrand cells k = o) ∨ ∃ i, s.checkFilter cells i = o) : s.checkControl cells = o := by
  rw [State.checkControl_eq]
  refine findSome?_only ?_ (reached.imp_right ?_)
  · simp only [List.forall_mem_append, List.forall_mem_cons, List.forall_mem_map, List.mem_finRange, true_implies, unlocked,
      checkActions_untouched cells actions]
    exact ⟨⟨⟨⟨⟨global, .inl trivial, .inl trivial, fun _ h => (nomatch h)⟩, windows⟩, faces⟩, strands⟩, filters⟩
  · simp only [List.mem_append, List.mem_cons, List.mem_map, List.mem_finRange, true_and]
    tauto

/-- No check of an area refuses a write that does not touch it. -/
theorem CellsIn.checkGlobal (h : CellsIn cells lo hi) (apart : 0x100 ≤ lo) : s.checkGlobal cells = none :=
  (s.checkGlobal_eq cells).trans (if_pos (h.apart (.inr (by omega))))

theorem CellsIn.checkUnlocked (h : CellsIn cells lo hi) (apart : hi ≤ 0x100 ∨ 0x110 ≤ lo) : s.checkUnlocked cells = none :=
  (s.checkUnlocked_eq cells).trans (if_pos (h.apart apart))

theorem CellsIn.checkWindow (h : CellsIn cells lo hi) {w : Fin 16}
    (apart : hi ≤ 0x400 + w.val * 0x40 ∨ 0x400 + w.val * 0x40 + 0x40 ≤ lo) : s.checkWindow cells w = none :=
  (s.checkWindow_eq cells w).trans (if_pos (h.apart apart))

theorem CellsIn.checkFace (h : CellsIn cells lo hi) {k : Fin 16}
    (apart : hi ≤ 0x800 + k.val * 0x40 ∨ 0x800 + k.val * 0x40 + 0x40 ≤ lo) : s.checkFace cells k = none :=
  (s.checkFace_eq cells k).trans (if_neg fun c => h.apart apart c.1)

theorem CellsIn.checkStrand (h : CellsIn cells lo hi) {k : Fin 4}
    (apart : hi ≤ 0xC00 + k.val * 0x80 ∨ 0xC00 + k.val * 0x80 + 0x80 ≤ lo) : s.checkStrand cells k = none :=
  (s.checkStrand_eq cells k).trans (if_neg fun c => h.apart apart c.1)

theorem CellsIn.checkFilter (h : CellsIn cells lo hi) {i : Fin 8}
    (apart : hi ≤ 0xE00 + i.val * 0x10 ∨ 0xE00 + i.val * 0x10 + 0x10 ≤ lo) : s.checkFilter cells i = none :=
  (s.checkFilter_eq cells i).trans (if_pos (h.apart apart))

/-! ### A write within one area -/

/-- Within the Global Settings the check of that area decides. -/
theorem CellsIn.control_global (h : CellsIn cells 0 0x100) : s.checkControl cells = s.checkGlobal cells :=
  State.checkControl_only (.inr rfl) (h.checkUnlocked (.inl (by omega))) (h.noAction (.inl (by omega)))
    (fun _ => .inl (h.checkWindow (.inl (by omega)))) (fun _ => .inl (h.checkFace (.inl (by omega))))
    (fun _ => .inl (h.checkStrand (.inl (by omega)))) (fun _ => .inl (h.checkFilter (.inl (by omega)))) (.inr (.inl rfl))

theorem CellsIn.control_window {w : Fin 16} (h : CellsIn cells (0x400 + w.val * 0x40) (0x440 + w.val * 0x40)) :
    s.checkControl cells = s.checkWindow cells w := by
  refine State.checkControl_only (.inl (h.checkGlobal (by omega))) (h.checkUnlocked (.inr (by omega)))
    (h.noAction (.inr (by omega))) (fun v => ?_) (fun _ => .inl (h.checkFace (.inl (by omega))))
    (fun _ => .inl (h.checkStrand (.inl (by omega)))) (fun _ => .inl (h.checkFilter (.inl (by omega)))) (.inr (.inr (.inl ⟨w, rfl⟩)))
  by_cases same : v = w
  · exact .inr (same ▸ rfl)
  · exact .inl (h.checkWindow (by omega))

theorem CellsIn.control_face {k : Fin 16} (h : CellsIn cells (0x800 + k.val * 0x40) (0x840 + k.val * 0x40)) :
    s.checkControl cells = s.checkFace cells k := by
  refine State.checkControl_only (.inl (h.checkGlobal (by omega))) (h.checkUnlocked (.inr (by omega)))
    (h.noAction (.inr (by omega))) (fun _ => .inl (h.checkWindow (.inr (by omega)))) (fun j => ?_)
    (fun _ => .inl (h.checkStrand (.inl (by omega)))) (fun _ => .inl (h.checkFilter (.inl (by omega))))
    (.inr (.inr (.inr (.inl ⟨k, rfl⟩))))
  by_cases same : j = k
  · exact .inr (same ▸ rfl)
  · exact .inl (h.checkFace (by omega))

theorem CellsIn.control_strand {k : Fin 4} (h : CellsIn cells (0xC00 + k.val * 0x80) (0xC80 + k.val * 0x80)) :
    s.checkControl cells = s.checkStrand cells k := by
  refine State.checkControl_only (.inl (h.checkGlobal (by omega))) (h.checkUnlocked (.inr (by omega)))
    (h.noAction (.inr (by omega))) (fun _ => .inl (h.checkWindow (.inr (by omega))))
    (fun _ => .inl (h.checkFace (.inr (by omega)))) (fun j => ?_) (fun _ => .inl (h.checkFilter (.inl (by omega))))
    (.inr (.inr (.inr (.inr (.inl ⟨k, rfl⟩)))))
  by_cases same : j = k
  · exact .inr (same ▸ rfl)
  · exact .inl (h.checkStrand (by omega))

theorem CellsIn.control_filter {i : Fin 8} (h : CellsIn cells (0xE00 + i.val * 0x10) (0xE10 + i.val * 0x10)) :
    s.checkControl cells = s.checkFilter cells i := by
  refine State.checkControl_only (.inl (h.checkGlobal (by omega))) (h.checkUnlocked (.inr (by omega)))
    (h.noAction (.inr (by omega))) (fun _ => .inl (h.checkWindow (.inr (by omega))))
    (fun _ => .inl (h.checkFace (.inr (by omega)))) (fun _ => .inl (h.checkStrand (.inr (by omega)))) (fun j => ?_)
    (.inr (.inr (.inr (.inr (.inr ⟨i, rfl⟩)))))
  by_cases same : j = i
  · exact .inr (same ▸ rfl)
  · exact .inl (h.checkFilter (by omega))

/-! ### The bytes merged (R174) -/

theorem State.forEach_none {α : Type} {test : α → Bool} (f : State → α → State) {l : List α}
    (none_ : ∀ a, test a = false) (s : State) : State.forEach test f l s = s := by
  rw [State.forEach_eq, List.filter_eq_nil_iff.mpr fun a _ => Bool.eq_false_iff.mp (none_ a)]
  rfl

/-- A write within the Face and the Strand Settings is merged, and takes no other effect. -/
theorem State.applyControl_settings (inv : s.Inv) (h : CellsIn cells 0x800 0xE00) :
    s.applyControl cells = { s with shadow := Memory.writeAll s.shadow cells } := by
  have all : merged s.shadow cells = Memory.writeAll s.shadow cells := by
    unfold merged
    refine congrArg (Memory.writeAll s.shadow) (List.filter_eq_self.mpr fun c mem => ?_)
    have := h c mem
    unfold shadowed
    simp only [Bool.or_eq_true, Bool.and_eq_true, decide_eq_true_eq]
    omega
  have other (a : Nat) (apart : a < 0x800 ∨ 0xE00 ≤ a) :
      Memory.read (Memory.writeAll s.shadow cells) a = Memory.read s.shadow a :=
    Memory.read_writeAll_other cells s.shadow a inv.shadow fun c mem same => by
      have := h c mem
      omega
  have entry (w : Fin 16) : Machine.windowEnabled (Memory.writeAll s.shadow cells) w = Machine.windowEnabled s.shadow w := by
    unfold Machine.windowEnabled
    rw [other _ (by unfold windowAt; omega)]
  have filter (i : Fin 8) : filterEnabled (Memory.writeAll s.shadow cells) i = filterEnabled s.shadow i := by
    unfold filterEnabled
    rw [other _ (by unfold filterAt; omega)]
  have taken : s.takeShadow (Memory.writeAll s.shadow cells) = { s with shadow := Memory.writeAll s.shadow cells } := by
    refine if_pos ?_
    unfold State.causeMask
    dsimp only
    rw [field_two, field_two, other _ (by decide), other _ (by decide)]
  have effect : State.globalEffect { s with shadow := Memory.writeAll s.shadow cells } s.shadow =
      { s with shadow := Memory.writeAll s.shadow cells } := by
    rw [State.globalEffect_eq, other 0 (by omega), if_neg, if_neg]
    · rintro ⟨-, one, zero⟩
      exact absurd (one.symm.trans zero) (by decide)
    · rintro ⟨pass, one⟩
      exact inv.pass pass ((globals_enable_iff s.shadow 1).mpr one)
  have merge : s.mergeControl cells = { s with shadow := Memory.writeAll s.shadow cells } := by
    unfold State.mergeControl
    dsimp only
    rw [all, State.forEach_none _ (fun i => by rw [filter, Bool.not_and_self]),
      State.forEach_none _ (fun w => by rw [entry, Bool.not_and_self]),
      State.forEach_none _ (fun w => by rw [entry, Bool.and_not_self]), taken, effect]
  have actions : coversActions cells = false := h.noAction (.inr (by omega))
  have performed (l : List (Fin 7)) (u : State) : State.performActions cells l u = u := by
    rw [performActions_eq]
    induction l generalizing u with
    | nil => rfl
    | cons n rest ih =>
      have empty : (wordGiven cells n.val).length ≠ 8 := by
        rw [wordGiven_untouched cells actions]
        decide
      exact (congrArg (List.foldl _ · rest) (if_neg empty)).trans (ih u)
  unfold State.applyControl
  rw [performed, merge]

end

/-! ### The command (R174) -/

section
variable {s b : State} {offset : BitVec 14} {data : List Byte} {strobes : List Bool}
  (wf : (Instr.controlPageSettingsWrite offset data strobes).wellFormed = true) (low : s.resetLow = false)
  (flight : s.path.controlInFlight = none)

include wf low flight

theorem Answers.settingsWrite_taken (ok : s.checkControl (coveredCells offset.toNat data strobes) = none)
    (hb : (s.opened.applyControl (coveredCells offset.toNat data strobes)).takePresented = b) :
    Answers (.controlPageSettingsWrite offset data strobes) s b := by
  have frame : exec (.controlPageSettingsWrite offset data strobes) s = .next (s.event fun t =>
    t.control offset.toNat (t.checkControl (coveredCells offset.toNat data strobes))
      fun u => (u.applyControl (coveredCells offset.toNat data strobes)).takePresented) := if_pos wf
  exact .of_taken (e := fun t => t.checkControl (coveredCells offset.toNat data strobes))
    (f := fun u => (u.applyControl (coveredCells offset.toNat data strobes)).takePresented) frame low flight
    ((s.checkControl_opened _).trans ok) hb

theorem Answers.settingsWrite_refused {r : Reason}
    (check : s.checkControl (coveredCells offset.toNat data strobes) = some r) :
    Answers (.controlPageSettingsWrite offset data strobes) s (State.controlRefused s r offset.toNat) := by
  have frame : exec (.controlPageSettingsWrite offset data strobes) s = .next (s.event fun t =>
    t.control offset.toNat (t.checkControl (coveredCells offset.toNat data strobes))
      fun u => (u.applyControl (coveredCells offset.toNat data strobes)).takePresented) := if_pos wf
  exact .of_control_refused s (e := fun t => t.checkControl (coveredCells offset.toNat data strobes))
    (f := fun u => (u.applyControl (coveredCells offset.toNat data strobes)).takePresented) frame low flight
    ((s.checkControl_opened _).trans check)

end

end Sys2Proof.Machine

open Sys2Proof Sys2Proof.Machine

/-! ### The statement -/

/-- Settles O58: the write by its check; within one area, by that area's lock. -/
theorem settingsAreMergedOrLocked : Obligations.SettingsAreMergedOrLocked := by
  refine ⟨fun s offset data strobes low flight wf => ?decided, fun s offset data strobes low flight quiet inv wf => ?areas⟩
  case decided =>
    intro cells
    have covered : coveredCells offset.toNat data strobes = cells := coveredCells_eq _ _ _
    clear_value cells
    subst covered
    exact ⟨fun ok => .settingsWrite_taken wf low flight ok rfl, fun r refused => .settingsWrite_refused wf low flight refused⟩
  case areas =>
    intro n merged locked
    obtain ⟨reads, writes⟩ := quiet
    have lengths : strobes.length = data.length := by
      simp only [Instr.wellFormed, Bool.and_eq_true, beq_iff_eq] at wf
      exact wf.2
    have within {lo hi : Nat} (above : lo ≤ n) (below : n + data.length ≤ hi) :
        CellsIn (coveredCells offset.toNat data strobes) lo hi := fun c mem => by
      have := coveredCells_within mem
      omega
    have refused (check : s.checkControl (coveredCells offset.toNat data strobes) = some .entryLocked) : locked :=
      .settingsWrite_refused wf low flight check
    have covered (some_ : strobes.any id = true) {a size : Nat} (above : a ≤ n) (below : n + data.length ≤ a + size) :
        ∃ c ∈ coveredCells offset.toNat data strobes, a ≤ c.1 ∧ c.1 < a + size := by
      obtain ⟨t, mem, set⟩ := List.any_eq_true.mp some_
      obtain rfl : t = true := set
      obtain ⟨i, at_⟩ := List.mem_iff_getElem?.mp mem
      obtain ⟨b, cell⟩ := mem_coveredCells (off := offset.toNat) lengths at_
      exact ⟨_, cell, within above below _ cell⟩
    have beyond {a size : Nat} (above : a ≤ n) (below : n + data.length ≤ a + size)
        (byte : ∃ i, strobes[i]? = some true ∧ n + i ≠ a) :
        ∃ c ∈ coveredCells offset.toNat data strobes, a + 1 ≤ c.1 ∧ c.1 < a + 1 + (size - 1) := by
      obtain ⟨i, strobe, other⟩ := byte
      obtain ⟨b, cell⟩ := mem_coveredCells (off := offset.toNat) lengths strobe
      have inside := within above below _ cell
      exact ⟨_, cell, by dsimp only at inside ⊢; omega⟩
    have taken (inSettings : CellsIn (coveredCells offset.toNat data strobes) 0x800 0xE00)
        (check : s.checkControl (coveredCells offset.toNat data strobes) = none) : merged := by
      have effect : (s.opened.applyControl (coveredCells offset.toNat data strobes)).takePresented =
          { s.opened with shadow := Memory.writeAll s.shadow (coveredCells offset.toNat data strobes) } := by
        rw [State.applyControl_settings (State.Keeps.opened s |>.inv inv) inSettings]
        exact State.takePresented_none _ reads writes
      obtain ⟨t, next, settles⟩ := Answers.settingsWrite_taken wf low flight check effect
      have shadow : t.shadow = Memory.writeAll s.shadow (coveredCells offset.toNat data strobes) :=
        congrArg State.shadow settles.same
      refine ⟨t, next, shadow.symm ▸ settles, fun i => ?_⟩
      rw [shadow]
      exact read_coveredCells inv.shadow _ _ _ _ lengths
    refine ⟨fun k above below => ?strand, fun k above below => ?face, fun w above below on byte => ?window,
      fun i above below on byte => ?filter, fun below on byte => ?global⟩
    case strand =>
      have inStrand := within above below
      refine ⟨fun idle => taken (within (by omega) (by omega)) ?_, fun busy some_ => refused ?_⟩
      · exact inStrand.control_strand.trans ((State.checkStrand_eq _ _ k).trans (if_neg fun h => h.2 idle))
      · exact inStrand.control_strand.trans ((State.checkStrand_eq _ _ k).trans
          (if_pos ⟨covered some_ above (by omega), busy⟩))
    case face =>
      have inFace := within above below
      refine ⟨fun free => taken (within (by omega) (by omega)) ?_, fun fed some_ => refused ?_⟩
      · exact inFace.control_face.trans ((State.checkFace_eq _ _ k).trans (if_neg fun h => h.2 free))
      · exact inFace.control_face.trans ((State.checkFace_eq _ _ k).trans
          (if_pos ⟨covered some_ above (by omega), Option.isSome_iff_ne_none.mp fed⟩))
    case window =>
      have inWindow := within above below
      obtain ⟨c, mem, inside⟩ := beyond above (size := 0x40) (by omega) byte
      refine refused (inWindow.control_window.trans ((State.checkWindow_eq _ _ w).trans ((if_neg ?_).trans (if_pos ?_))))
      · exact not_not.mpr ⟨c, mem, by unfold windowAt; omega⟩
      · exact ⟨(windowEnabled_iff _ w).mp on, c, mem, inside⟩
    case filter =>
      have inFilter := within above below
      obtain ⟨c, mem, inside⟩ := beyond above (size := 0x10) (by omega) byte
      refine refused (inFilter.control_filter.trans ((State.checkFilter_eq _ _ i).trans ((if_neg ?_).trans (if_pos ?_))))
      · exact not_not.mpr ⟨c, mem, by unfold filterAt; omega⟩
      · exact ⟨(filterEnabled_iff _ i).mp on, c, mem, inside⟩
    case global =>
      have inGlobal := within (lo := 0) (Nat.zero_le n) below
      obtain ⟨c, mem, inside⟩ := beyond (Nat.zero_le n) (size := 0x100) (by omega) byte
      refine refused (inGlobal.control_global.trans ((State.checkGlobal_eq _ _).trans ((if_neg ?_).trans (if_pos ?_))))
      · exact not_not.mpr ⟨c, mem, by omega⟩
      · exact ⟨(globals_enable_iff s.shadow 1).mp on, c, mem, inside⟩

end

-- ==== What the Status Writer notes and writes (R179, R180, R183) ====
section
/-!
PROOFS. Every command but the two resets is one event, whose operation either issues no block or is the giving of a place to the
Status Writer, which issues the lowest block that qualifies. The end of the event marks what the operation has changed and issues the
blocks that qualify, lowest first.
-/
namespace Sys2Proof.Machine

/-! ### The published fields of a block (R179) -/

theorem blockChanged_global (old new : State) : blockChanged old new 0 = true ↔ old.globalPublished ≠ new.globalPublished :=
  bne_iff_ne

theorem blockChanged_face (old new : State) (k : Fin 16) : blockChanged old new (faceBlock k) = true ↔
    (old.face k).published ≠ (new.face k).published ∨ old.lastCompletedOf k ≠ new.lastCompletedOf k := by
  have number : (faceBlock k).val = 6 + k.val := rfl
  have zero : ¬(faceBlock k).val = 0 := by omega
  have one : ¬(faceBlock k).val = 1 := by omega
  have face : ¬(faceBlock k).val < 6 := by omega
  have index : (⟨(faceBlock k).val - 6, by omega⟩ : Fin 16) = k := Fin.ext (show (faceBlock k).val - 6 = k.val by omega)
  unfold blockChanged
  rw [if_neg zero, if_neg one, dif_neg face]
  dsimp only
  rw [index, Bool.or_eq_true, bne_iff_ne, bne_iff_ne]

/-- No block shows what the Status Writer does at the end of an event. -/
theorem State.Settles.blockChanged {new t : State} (h : new.Settles t) (old : State) (b : Fin 22) :
    Machine.blockChanged old t b = Machine.blockChanged old new b := by
  rw [h.same]
  rfl

theorem State.Settles.blockWrite {new t : State} (h : new.Settles t) : t.blockWrite = new.blockWrite := by
  rw [h.same, State.blockWrite_writer]

/-! ### A block written at an event (R180) -/

/-- The block has been written at the event that left the state, its count raised from the one given, and no block above one left. -/
structure State.WritesBlock (t : State) (b : Fin 22) (before : BitVec 32) : Prop where
  sequence : (t.mark b).sequence = before + 1
  outstanding : (t.mark b).outstanding = true
  dirty : (t.mark b).dirty = false
  periodic : (t.mark b).periodic = false
  queued : t.blockWrite (b, (t.mark b).sequence) ∈ t.own.queue
  lowest : ∀ j, j < b → (t.mark j).qualifies = false

section
variable (new old : State)

/-- At the end of an event a block that qualifies is left exactly where the Status Writer waits, and then no place is free. -/
theorem State.settled_left :
    ((∃ b, ((new.settled old).mark b).qualifies = true) ↔ ∃ n, (.statusWriter, n) ∈ (new.settled old).own.waiters) ∧
      ((∃ n, (.statusWriter, n) ∈ (new.settled old).own.waiters) →
        8 ≤ (new.settled old).own.queue.length + (new.settled old).own.waiters.length) := by
  obtain ⟨left, full⟩ := (new.markChanges old).issueBlocks_left (List.finRange 22)
  refine ⟨Iff.trans ⟨fun ⟨b, h⟩ => ⟨b, List.mem_finRange b, h⟩, fun ⟨b, _, h⟩ => ⟨b, h⟩⟩ left, full⟩

/-- A block whose count has risen at the end of an event was written there. -/
theorem State.settled_written {b : Fin 22} (risen : ((new.settled old).mark b).sequence ≠ (new.mark b).sequence) :
    (new.settled old).WritesBlock b (new.mark b).sequence ∧
      (b = 0 → (new.settled old).causes.carried = (new.settled old).causes.pending) := by
  have marked : ((new.markChanges old).mark b).sequence = (new.mark b).sequence := by
    rw [State.markChanges_mark]
  have settles : (new.markChanges old).Settles (new.settled old) := .issueBlocks _ _
  obtain ⟨-, mark, queued, lower, carried⟩ :=
    (new.markChanges old).issueBlocks_issued (List.finRange 22) (List.pairwise_lt_finRange 22) b (by rw [marked]; exact risen)
  have issued : (new.settled old).mark b = ((new.markChanges old).mark b).atIssue := mark
  refine ⟨⟨?_, ?_, ?_, ?_, ?_, fun j => lower j (List.mem_finRange j)⟩, fun zero => (carried zero).trans ?_⟩
  · rw [issued, ← marked]
    rfl
  · rw [issued]
    rfl
  · rw [issued]
    rfl
  · rw [issued]
    rfl
  · rw [issued, settles.blockWrite]
    exact queued
  · rw [settles.same]

end

/-! ### The giving of a place (R16, R180) -/

/-- A place given to a unit issues no block, or the lowest that qualifies. -/
theorem State.givePlace_cases (s : State) (w : Waiter) : s.Carries (s.givePlace w) ∨
    ∃ b, (s.mark b).qualifies = true ∧ (∀ j, j < b → (s.mark j).qualifies = false) ∧ s.givePlace w = s.issueBlock b := by
  cases w with
  | zeroRecords => exact .inl (State.Keeps.queueZeros _ _ _).toCarries
  | close k => exact .inl (State.Keeps.closeGiven _ _).toCarries
  | evidence => exact .inl (State.Keeps.engineGiven _).toCarries
  | statusWriter =>
    have given : s.givePlace .statusWriter = s.statusGiven := rfl
    rw [given]
    by_cases none_ : ∀ b, (s.mark b).qualifies = false
    · have found : ((List.finRange 22).find? fun b => (s.mark b).qualifies) = none :=
        List.find?_eq_none.mpr fun b _ => Bool.eq_false_iff.mp (none_ b)
      have same : s.statusGiven = s := by
        unfold State.statusGiven
        rw [found]
      exact .inl (same.symm ▸ .refl s)
    · obtain ⟨c, some_⟩ := not_forall.mp none_
      obtain ⟨b, first, least⟩ :=
        wellFounded_lt.has_min {b : Fin 22 | (s.mark b).qualifies = true} ⟨c, Bool.eq_true_of_not_eq_false some_⟩
      have lower : ∀ j, j < b → (s.mark j).qualifies = false := fun j below => by
        by_contra qualifies
        exact least j (by simpa using qualifies) below
      exact .inr ⟨b, first, lower, s.statusGiven_lowest b first lower⟩

/-- The state is left by an operation that issues no block, or by the issue of the lowest block that qualifies. -/
def State.WritesLowest (s o : State) : Prop := s.Carries o ∨ ∃ c w b, s.own.queue.length < Config.ownPlaces ∧
  (s.mark b).qualifies = true ∧ (∀ j, j < b → (s.mark j).qualifies = false) ∧
  o = State.issueBlock { s with choiceNumber := c, own := { s.own with waiters := w } } b

theorem State.WritesLowest.placeGiven (s : State) : s.WritesLowest s.placeGiven := by
  by_cases room : s.own.queue.length < Config.ownPlaces
  · by_cases none_ : s.own.waiters = []
    · have same : s.placeGiven = s := by
        unfold State.placeGiven State.longestWaiter
        rw [if_pos room, none_]
      exact .inl (same.symm ▸ .refl s)
    · obtain ⟨x, -, -, c, given⟩ := s.placeGiven_spec room none_
      have ended : s.Carries
          { s with choiceNumber := c, own := { s.own with waiters := s.own.waiters.filter fun y => y.1 != x.1 } } := .same rfl rfl
      obtain carries | ⟨b, first, lower, issued⟩ := State.givePlace_cases
        { s with choiceNumber := c, own := { s.own with waiters := s.own.waiters.filter fun y => y.1 != x.1 } } x.1
      · exact .inl (given ▸ .after carries ended)
      · exact .inr ⟨c, _, b, room, first, lower, given.trans issued⟩
  · exact .inl (by rw [show s.placeGiven = s from if_neg room]; exact .refl s)

/-! ### The blocks written at an event (R180, R183) -/

section
variable {u o : State}

/-- The issue of a block changes what no block shows. -/
theorem State.issueBlock_unchanged {s : State} {c : Nat} {w : List (Waiter × Nat)} (b : Fin 22)
    (room : s.own.queue.length < Config.ownPlaces) (j : Fin 22) :
    Machine.blockChanged s (State.issueBlock { s with choiceNumber := c, own := { s.own with waiters := w } } b) j = false ∧
      travelChanged s (State.issueBlock { s with choiceNumber := c, own := { s.own with waiters := w } } b) j = false := by
  obtain ⟨m, issued⟩ := State.issueBlock_joins { s with choiceNumber := c, own := { s.own with waiters := w } } b room
  rw [issued]
  exact blockChanged_self s j

/-- A block whose count an event has raised was written at it. -/
theorem State.WritesLowest.written (h : u.WritesLowest o) {b : Fin 22}
    (risen : ((o.settled u).mark b).sequence ≠ (u.mark b).sequence) :
    (o.settled u).WritesBlock b (u.mark b).sequence ∧
      (b = 0 → (o.settled u).causes.carried = (o.settled u).causes.pending) := by
  obtain carries | ⟨c, w, a, room, first, lower, rfl⟩ := h
  · have same := carries.sequence b
    rw [← same]
    exact State.settled_written o u (by rw [same]; exact risen)
  obtain ⟨v, hv⟩ : ∃ v, v = ({ u with choiceNumber := c, own := { u.own with waiters := w } } : State) := ⟨_, rfl⟩
  have marks (j : Fin 22) : (v.issueBlock a).mark j = if a = j then (u.mark a).atIssue else u.mark j := by
    rw [State.issueBlock_mark, hv]
    rfl
  have unchanged := State.issueBlock_unchanged (c := c) (w := w) a room
  obtain ⟨m, issued⟩ := State.issueBlock_joins { u with choiceNumber := c, own := { u.own with waiters := w } } a room
  rw [← hv] at risen unchanged issued ⊢
  by_cases own : a = b
  · subst own
    obtain ⟨changed, travel⟩ := unchanged a
    have mark : ((v.issueBlock a).settled u).mark a = (u.mark a).atIssue :=
      (State.settled_mark_outstanding _ u a (by rw [marks, if_pos rfl]; rfl) changed travel).trans ((marks a).trans (if_pos rfl))
    have settles : ((v.issueBlock a).markChanges u).Settles ((v.issueBlock a).settled u) := .issueBlocks _ _
    have whole : (v.issueBlock a).Settles ((v.issueBlock a).settled u) := .settled _ _
    obtain ⟨l, queue, carried⟩ := whole.issued
    refine ⟨⟨?_, ?_, ?_, ?_, ?_, fun j low => ?_⟩, fun zero => ?_⟩
    · rw [mark]
      rfl
    · rw [mark]
      rfl
    · rw [mark]
      rfl
    · rw [mark]
      rfl
    · rw [mark, whole.blockWrite, queue]
      refine List.mem_append_left _ ?_
      rw [issued]
      refine List.mem_append_right _ (List.mem_singleton.mpr ?_)
      rw [hv]
      rfl
    · obtain ⟨same, still⟩ := unchanged j
      have kept : ((v.issueBlock a).markChanges u).mark j = u.mark j := by
        rw [State.markChanges_mark, same, still, Bool.or_false, Bool.or_false, marks, if_neg (ne_of_gt low)]
      obtain left | ⟨qualifies, -⟩ := ((v.issueBlock a).markChanges u).issueBlocks_mark (List.finRange 22) j
      · exact (congrArg BlockMarks.qualifies (left.trans kept)).trans (lower j low)
      · rw [kept, lower j low] at qualifies
        exact absurd qualifies Bool.false_ne_true
    · have pending : (v.issueBlock a).causes.carried = (v.issueBlock a).causes.pending := by
        rw [issued, if_pos zero]
      have after : ((v.issueBlock a).settled u).causes.pending = (v.issueBlock a).causes.pending := by
        rw [whole.same]
      rw [carried, after, pending]
      exact ite_self _
  · have same : ((v.issueBlock a).mark b).sequence = (u.mark b).sequence := by
      rw [marks, if_neg own]
    rw [← same]
    exact State.settled_written _ u (by rw [same]; exact risen)

/-- A block whose published fields an event has changed is noted. -/
theorem State.WritesLowest.noted {s : State} (h : s.opened.WritesLowest o) {b : Fin 22}
    (changed : Machine.blockChanged s (o.settled s.opened) b = true) : s.noted (o.settled s.opened) b := by
  have whole : o.Settles (o.settled s.opened) := .settled _ _
  have before : Machine.blockChanged s.opened o b = true := (whole.blockChanged s b).symm.trans changed
  obtain carries | ⟨c, w, a, room, -, -, rfl⟩ := h
  · exact s.noted_settled o s.opened b (carries.sequence b) (.inr before)
  · exact absurd ((State.issueBlock_unchanged a room b).1.symm.trans before) Bool.false_ne_true

end

/-! ### Every command but the resets -/

section
variable {c : Instr} {s t : State}

/-- Every command but the resets is an event whose operation issues no block, or the lowest that qualifies. -/
theorem exec_settled (run : exec c s = .next t) (low : s.resetLow = false) (noAssert : c ≠ .resetAssert)
    (noRelease : ∀ a b, c ≠ .resetRelease a b) : ∃ o, s.opened.WritesLowest o ∧ t = o.settled s.opened := by
  have event (f : State → State) : s.event f = (f s.opened).settled s.opened := if_neg (by simp [low])
  by_cases given : c = .ownQueuePlaceGiven
  · subst given
    have same : s.event State.placeGiven = t := Host.Outcome.next.inj run
    exact ⟨_, .placeGiven _, same.symm.trans (event _)⟩
  · obtain ⟨f, same, -, carries⟩ := exec_event c s t run noAssert noRelease
    exact ⟨_, .inl (carries given _), same.trans (event f)⟩

/-- A published field that a command has changed is noted. -/
theorem noted_of_exec (run : exec c s = .next t) (noRelease : ∀ a b, c ≠ .resetRelease a b) {b : Fin 22}
    (changed : blockChanged s t b = true) : s.noted t b := by
  by_cases assert_ : c = .resetAssert
  · subst assert_
    have same : ({ s with resetLow := true, path := s.path.abandoned, own := s.own.abandoned } : State) = t :=
      Host.Outcome.next.inj run
    subst same
    exact absurd ((blockChanged_self s b).1.symm.trans changed) Bool.false_ne_true
  · by_cases low : s.resetLow = true
    · obtain ⟨f, same, -⟩ := exec_event c s t run assert_ noRelease
      have still : t = s := same.trans (if_pos low)
      rw [still] at changed
      exact absurd ((blockChanged_self s b).1.symm.trans changed) Bool.false_ne_true
    · obtain ⟨o, writes, rfl⟩ := exec_settled run (Bool.not_eq_true _ ▸ low) assert_ noRelease
      exact writes.noted changed

theorem BlockMarks.qualifies_iff (m : BlockMarks) : m.qualifies = true ↔ m.dirty = true ∧ m.outstanding = false := by
  unfold BlockMarks.qualifies
  rw [Bool.and_eq_true, Bool.not_eq_true']

end

end Sys2Proof.Machine

open Sys2Proof Sys2Proof.Machine

/-! ### The statement -/

/-- Settles O59: the end of the event by what is left and what is written, the published fields by their block. -/
theorem publishedChangesAreNoted : Obligations.PublishedChangesAreNoted := by
  refine ⟨fun c s t run low noAssert noRelease => ?writes, fun c s t run noRelease => ?notes⟩
  case writes =>
    obtain ⟨o, lowest, rfl⟩ := exec_settled run low noAssert noRelease
    obtain ⟨left, full⟩ := State.settled_left o s.opened
    simp only [BlockMarks.qualifies_iff] at left
    refine ⟨left, full, fun b risen => ?_, fun risen => (lowest.written risen).2 rfl⟩
    obtain ⟨⟨sequence, outstanding, dirty, periodic, queued, lower⟩, -⟩ := lowest.written risen
    refine ⟨sequence, outstanding, dirty, periodic, queued, fun j below qualifies => ?_⟩
    exact Bool.false_ne_true ((lower j below).symm.trans ((BlockMarks.qualifies_iff _).mpr qualifies))
  case notes =>
    refine ⟨fun changed => noted_of_exec run noRelease ((blockChanged_global s t).mpr fun same => ?_),
      fun changed => noted_of_exec run noRelease ((blockChanged_part s t).mpr changed),
      fun k changed => noted_of_exec run noRelease ((blockChanged_strand s t k).mpr changed),
      fun k changed => noted_of_exec run noRelease ((blockChanged_face s t k).mpr changed)⟩
    simp only [State.globalPublished, Prod.mk.injEq] at same
    tauto

end

-- ==== The layouts of the records and of the settings (R138, R145, R163, R180, R184 to R186) ====
section
/-!
PROOFS. Each record's bytes are the bytes of its fields, one behind another (`fieldBytes`), so a record's length and every field
at its offset follow from `record_reads`. The bits of a sum of flags are the flags (`flags_digit`).
-/
namespace Sys2Proof.Machine

/-! ### Numbers in bytes (R184) -/

theorem leNat_zipIdx (l : List Byte) (k : Nat) :
    256 ^ k * leNat l = ((l.zipIdx k).map fun x => x.1.toNat * 256 ^ x.2).sum := by
  induction l generalizing k with
  | nil => rfl
  | cons b rest ih =>
    rw [List.zipIdx_cons, List.map_cons, List.sum_cons, ← ih (k + 1), leNat]
    ring

theorem leNat_readBytes (m : List Host.Cell) (a n : Nat) :
    leNat (Memory.readBytes m a n) = ((List.range n).map fun i => (Memory.read m (a + i)).toNat * 256 ^ i).sum := by
  induction n generalizing a with
  | zero => rfl
  | succ n ih =>
    have shifted : (fun i => (Memory.read m (a + (i + 1))).toNat * 256 ^ (i + 1)) =
        fun i => 256 * ((Memory.read m (a + 1 + i)).toNat * 256 ^ i) := by
      funext i
      rw [show a + (i + 1) = a + 1 + i by omega]
      ring
    rw [Memory.readBytes, leNat, ih, List.range_succ_eq_map, List.map_cons, List.sum_cons, List.map_map]
    change _ = _ + (List.map (fun i => (Memory.read m (a + (i + 1))).toNat * 256 ^ (i + 1)) _).sum
    rw [shifted, List.sum_map_mul_left]
    simp

/-! ### Sums of flags -/

theorem flags_eq_ofBits {n : Nat} (p : Fin n → Bool) :
    ((List.finRange n).map fun i => flagBit (p i) i.val).sum = Nat.ofBits p := by
  induction n with
  | zero => rfl
  | succ n ih =>
    have doubled : ((fun i : Fin (n + 1) => flagBit (p i) i.val) ∘ Fin.succ) =
        fun i => 2 * flagBit ((p ∘ Fin.succ) i) i.val := by
      funext i
      simp only [Function.comp_apply, flagBit, Fin.val_succ]
      split
      · ring
      · rfl
    have lowest : flagBit (p 0) 0 = (p 0).toNat := by cases p 0 <;> rfl
    rw [List.finRange_succ, List.map_cons, List.sum_cons, List.map_map, doubled, List.sum_map_mul_left, ih, Nat.ofBits_succ,
      Nat.add_comm]
    exact congrArg _ lowest

/-- Binary digit i of a sum of flags is flag i. -/
theorem flags_digit {n : Nat} (p : Fin n → Bool) (i : Fin n) :
    ((List.finRange n).map fun i => flagBit (p i) i.val).sum / 2 ^ i.val % 2 = if p i = true then 1 else 0 := by
  have digit : (Nat.ofBits p).testBit i.val = p i := Nat.testBit_ofBits_lt p i.val i.isLt
  rw [flags_eq_ofBits, ← digit, Nat.testBit_eq_decide_div_mod_eq]
  obtain even | odd := Nat.mod_two_eq_zero_or_one (Nat.ofBits p / 2 ^ i.val)
  · simp [even]
  · simp [odd]

/-! ### Fields one behind another -/

@[simp] theorem fieldBytes_nil : fieldBytes [] = [] := rfl

@[simp] theorem fieldBytes_cons (x : Nat × Nat × Nat) (l : List (Nat × Nat × Nat)) :
    fieldBytes (x :: l) = leBytes x.2.1 x.2.2 ++ fieldBytes l := rfl

theorem fieldBytes_length (l : List (Nat × Nat × Nat)) : (fieldBytes l).length = (l.map (·.2.1)).sum := by
  simp [fieldBytes, List.length_flatMap]

/-- What is read of bytes that are those of the fields. -/
theorem record_reads {bytes : List Byte} {l : List (Nat × Nat × Nat)} {n : Nat} (made : bytes = fieldBytes l)
    (lie : fieldsFrom 0 l = true) (ends : (l.map (·.2.1)).sum = n) :
    bytes.length = n ∧ ∀ x ∈ l, (bytes.drop x.1).take x.2.1 = leBytes x.2.1 x.2.2 := by
  subst made
  exact ⟨(fieldBytes_length l).trans ends, field_at [] l lie⟩

/-- What is read of the fields that lie behind a status block's sequence count. -/
theorem block_reads {bytes rest : List Byte} {l : List (Nat × Nat × Nat)} {n : BitVec 32}
    (shown : bytes = leBytes 4 n.toNat ++ rest) (made : rest = fieldBytes l) (lie : fieldsFrom 4 l = true) :
    ∀ x ∈ l, (bytes.drop x.1).take x.2.1 = leBytes x.2.1 x.2.2 := by
  subst made shown
  exact field_at _ l (by rw [leBytes_length]; exact lie)

theorem flatMap_four (f : Fin 4 → List Byte) : (List.finRange 4).flatMap f = f 0 ++ (f 1 ++ (f 2 ++ (f 3 ++ []))) := rfl

theorem flatMap_eight (f : Fin 8 → List Byte) : (List.finRange 8).flatMap f =
    f 0 ++ (f 1 ++ (f 2 ++ (f 3 ++ (f 4 ++ (f 5 ++ (f 6 ++ (f 7 ++ []))))))) := rfl

theorem lowBytes_nil : lowBytes [] = [] := rfl

theorem lowBytes_cons (v : Nat) (l : List Nat) : lowBytes (v :: l) = leBytes 1 v ++ lowBytes l := rfl

theorem lowWords_nil : lowWords [] = [] := rfl

theorem lowWords_cons (v : Nat) (l : List Nat) : lowWords (v :: l) = leBytes 2 v ++ lowWords l := rfl

/-! ### Status blocks (R180) -/

section
variable (s : State) (n : BitVec 32)

theorem statusBytes_part : statusBytes s 0 n = leBytes 4 n.toNat ++ block0 s := rfl

theorem statusBytes_published : statusBytes s 1 n = leBytes 4 n.toNat ++ block1 s := rfl

theorem statusBytes_strand (k : Fin 4) :
    statusBytes s (strandBlock k) n = leBytes 4 n.toNat ++ strandBlockBytes (s.strand k) := by
  have number : (strandBlock k).val = 2 + k.val := rfl
  have named : (⟨(strandBlock k).val - 2, by omega⟩ : Fin 4) = k := Fin.ext (Nat.add_sub_cancel_left ..)
  unfold statusBytes
  rw [if_neg (by omega), if_neg (by omega), dif_pos (by omega), named]

theorem statusBytes_face (k : Fin 16) :
    statusBytes s (faceBlock k) n = leBytes 4 n.toNat ++ faceBlockBytes (s.face k) (s.lastCompletedOf k) := by
  have number : (faceBlock k).val = 6 + k.val := rfl
  have named : (⟨(faceBlock k).val - 6, by omega⟩ : Fin 16) = k := Fin.ext (Nat.add_sub_cancel_left ..)
  unfold statusBytes
  rw [if_neg (by omega), if_neg (by omega), dif_neg (by omega)]
  dsimp only
  rw [named]

/-- Every block is one of the four kinds. -/
theorem block_cases (b : Fin 22) : b = 0 ∨ b = 1 ∨ (∃ k, b = strandBlock k) ∨ ∃ k, b = faceBlock k := by
  by_cases zero : b.val = 0
  · exact .inl (Fin.ext zero)
  · by_cases one : b.val = 1
    · exact .inr (.inl (Fin.ext one))
    · by_cases strand : b.val < 6
      · exact .inr (.inr (.inl ⟨⟨b.val - 2, by omega⟩, Fin.ext (by change _ = 2 + (b.val - 2); omega)⟩))
      · exact .inr (.inr (.inr ⟨⟨b.val - 6, by omega⟩, Fin.ext (by change _ = 6 + (b.val - 6); omega)⟩))

theorem block0_length : (block0 s).length = 60 := by
  unfold block0
  simp

theorem block1_length : (block1 s).length = 60 := by
  unfold block1 slotByte lowBytes
  simp [List.length_flatMap]

theorem strandBlockBytes_length (x : Strand) : (strandBlockBytes x).length = 60 := by
  unfold strandBlockBytes lowBytes
  simp

theorem faceBlockBytes_length (x : Face) (last : Option Nat) : (faceBlockBytes x last).length = 60 := by
  unfold faceBlockBytes lowWords
  simp

/-- A status block is its sequence count and 60 bytes behind it. -/
theorem statusBytes_eq (b : Fin 22) : ∃ rest, rest.length = 60 ∧ statusBytes s b n = leBytes 4 n.toNat ++ rest := by
  obtain rfl | rfl | ⟨k, rfl⟩ | ⟨k, rfl⟩ := block_cases b
  · exact ⟨_, block0_length s, statusBytes_part s n⟩
  · exact ⟨_, block1_length s, statusBytes_published s n⟩
  · exact ⟨_, strandBlockBytes_length _, statusBytes_strand s n k⟩
  · exact ⟨_, faceBlockBytes_length _ _, statusBytes_face s n k⟩

end

/-! ### The pool's counts (10.8) -/

theorem State.heldEntries_eq (s : State) : s.heldEntries = (s.billet 0).holdList.length + (s.billet 1).holdList.length +
    (s.billet 2).holdList.length + (s.billet 3).holdList.length := by
  have sum : s.heldEntries = (s.billet 0).holdList.length + ((s.billet 1).holdList.length +
      ((s.billet 2).holdList.length + ((s.billet 3).holdList.length + 0))) := rfl
  omega

theorem State.freeTiles_eq (s : State) : s.freeTiles =
    ((List.finRange 64).filter fun i => decide (i.val < s.globals.tileCount ∧ s.tile i = .free)).length := by
  have same (i : Fin 64) : (decide (i.val < s.globals.tileCount) && s.tile i == .free) =
      decide (i.val < s.globals.tileCount ∧ s.tile i = .free) := by
    rw [Bool.decide_and, beq_eq_decide]
  simp only [State.freeTiles, same]

theorem State.readyTiles_digit (s : State) (i : Fin 64) :
    s.readyTiles / 2 ^ i.val % 2 = if i.val < s.globals.tileCount ∧ s.tile i = .ready then 1 else 0 := by
  refine (flags_digit (fun i : Fin 64 => decide (i.val < s.globals.tileCount) && s.tile i == .ready) i).trans ?_
  simp only [Bool.and_eq_true, decide_eq_true_eq, beq_iff_eq]

end Sys2Proof.Machine

open Sys2Proof Sys2Proof.Machine

/-! ### The statement -/

/-- Settles O60: a record's bytes are those of its fields, which lie one behind another. -/
theorem recordsAre64Bytes : Obligations.RecordsAre64Bytes := by
  unfold Obligations.RecordsAre64Bytes
  refine ⟨fun n v => ⟨leBytes_length n v, leBytes_getElem? n v⟩, fun l => ?_, leNat_readBytes, fun s => ?_, ?codes, ?ring,
    ?billet, ?tile, ?block, ?part, ?strand, ?face, fun s => ⟨s.heldEntries_eq, s.freeTiles_eq, s.readyTiles_digit⟩⟩
  · simpa using leNat_zipIdx l 0
  · exact ⟨rfl, rfl, rfl, fun _ => rfl, fun _ => rfl, fun _ => rfl, fun _ => rfl⟩
  case codes =>
    refine ⟨fun _ _ => rfl, fun _ _ => rfl, rfl, rfl, rfl, fun c => ?_, rfl, rfl, rfl, rfl, rfl, rfl, rfl,
      ⟨rfl, fun _ => ⟨rfl, rfl, rfl⟩⟩, rfl, rfl, rfl, rfl, rfl, rfl, rfl, rfl⟩
    cases c <;> rfl
  case ring =>
    intro f n head
    refine record_reads ?_ rfl (by simp)
    unfold ringRecord
    simp only [fieldBytes_cons, fieldBytes_nil, List.append_assoc, List.append_nil, zeroBytes_eq]
  case billet =>
    intro k w a b
    refine and_assoc.mp (and_and_and_comm.mp ⟨record_reads ?_ rfl (by simp), record_reads ?_ rfl (by simp)⟩)
    · dsimp only [a]
      unfold billetFirstHalf
      simp only [fieldBytes_cons, fieldBytes_nil, List.append_assoc, List.append_nil, zeroBytes_eq]
    · dsimp only [b]
      unfold billetSecondHalf
      simp only [fieldBytes_cons, fieldBytes_nil, List.append_assoc, List.append_nil, zeroBytes_eq]
  case tile =>
    intro z o
    refine record_reads ?_ rfl (by simp)
    unfold tileHeader
    simp only [fieldBytes_cons, fieldBytes_nil, List.append_assoc, List.append_nil, zeroBytes_eq]
  case block =>
    intro s b n
    obtain ⟨rest, length, shown⟩ := statusBytes_eq s n b
    rw [shown]
    exact ⟨by rw [List.length_append, leBytes_length, length], List.take_left' (leBytes_length _ _)⟩
  case part =>
    intro s n e r slot
    refine ⟨block_reads (statusBytes_part s n) ?_ rfl, block_reads (statusBytes_published s n) ?_ rfl⟩
    · unfold block0
      simp only [fieldBytes_cons, fieldBytes_nil, List.append_assoc, List.append_nil, zeroBytes_eq]
    · have shown (i : Fin 4) : slotByte (s.slot i) = leBytes 1 (slot i) := by
        unfold slotByte
        dsimp only [slot]
        cases (s.slot i).state <;> rfl
      unfold block1
      dsimp only
      rw [flatMap_four, flatMap_eight]
      simp only [shown, lowBytes_cons, lowBytes_nil, fieldBytes_cons, fieldBytes_nil, List.append_assoc, List.append_nil,
        zeroBytes_eq]
      rfl
  case strand =>
    intro s n k u p y held front
    refine block_reads (statusBytes_strand s n k) ?_ rfl
    unfold strandBlockBytes
    simp only [lowBytes_cons, lowBytes_nil, fieldBytes_cons, fieldBytes_nil, List.append_assoc, List.append_nil, Nat.mul_comm 4,
      Nat.mul_comm 8, Nat.mul_comm 16, Nat.mul_comm 32, Nat.mul_comm 64, beq_eq_decide]
    rfl
  case face =>
    intro s n k h m c v g last
    have shown : s.lastCompletedOf k = last := by
      dsimp only [State.lastCompletedOf, last]
      cases s.feeding k <;> rfl
    refine block_reads (statusBytes_face s n k) ?_ rfl
    unfold faceBlockBytes
    simp only [lowWords_cons, lowWords_nil, fieldBytes_cons, fieldBytes_nil, List.append_assoc, List.append_nil, Nat.mul_comm 16,
      zeroBytes_eq, shown]
    rfl

end
